-- ==== Sys2Proof/Word.lean ====
section
/-! DEFINITION. The word types of the block (00_scope.md R8, 30_encoding.md R80, R82). -/

namespace Sys2Proof

/-- A byte: 8 bits, an unsigned integer 0 to 255 (R8). -/
abbrev Byte := BitVec 8

/-- Two bytes of a packet read as one number, the byte at the lower offset more significant (R61). -/
abbrev Half := BitVec 16

/-- A 32-bit value: the `b` operand of a command, the `val` field of a response (R80, R82). -/
abbrev Word := BitVec 32

/-- A command word or a response word as it stands on the port (R80, R82). -/
abbrev PortWord := BitVec 64

/-- An index of the sequence tables: an 11-bit APID (R121). -/
abbrev Apid := BitVec 11

/-- A sequence count: 14 bits, so that adding 1 is the sum modulo 16384 of R12. -/
abbrev SeqCount := BitVec 14

end Sys2Proof
end

