-- ==== Sys2Proof/Config.lean ====
section
/-! DEFINITION. The implementation parameters of 00_scope.md R5 and the constants derived from them
(R6). The spec leaves no result of a command undefined, so there is no free value here. -/

namespace Sys2Proof

/-- The parameters that are fixed when the block is built and never change while it runs, each with
the default of R5. `NAPID` = 2048 and `SEQMOD` = 16384 have one legal value each and stand in the
types `Apid` and `SeqCount`. -/
structure Params where
  /-- `BUFSZ`: capacity in bytes of `BUF` and of `FBUF`. -/
  bufsz : Nat := 65542
  /-- `SH_COARSE_OFF`: byte offset of the 4-byte coarse time. -/
  shCoarseOff : Nat := 6
  /-- `SH_FINE_OFF`: byte offset of the 1-byte fine time. -/
  shFineOff : Nat := 10
  /-- `SH_CKI_OFF`: byte offset of the byte that holds the checksum-indicator bit. -/
  shCkiOff : Nat := 11
  /-- `SH_CKI_BIT`: number of that bit, 0 the least significant. -/
  shCkiBit : Nat := 5
  /-- `TXSEQ_FIRST`: first sequence count assigned to an APID that has none yet. -/
  txseqFirst : SeqCount := 0
  /-- `RXMIN_RESET`: reset value of the `RXMIN` register. -/
  rxminReset : Nat := 16
deriving DecidableEq, Repr

/-- `SH_END`: the first byte offset after the time fields (R6). -/
def Params.shEnd (p : Params) : Nat := max (p.shCoarseOff + 4) (p.shFineOff + 1)

/-- `RXMIN_FLOOR`: the smallest packet length at which every fixed-offset read of the receive
pipeline is in bounds (R6). -/
def Params.rxminFloor (p : Params) : Nat := max 7 (max p.shEnd (p.shCkiOff + 1))

/-- The legal ranges of R5. -/
abbrev Params.Legal (p : Params) : Prop :=
  (16 ≤ p.bufsz ∧ p.bufsz ≤ 65542) ∧
  (6 ≤ p.shCoarseOff ∧ p.shCoarseOff + 4 ≤ p.bufsz) ∧
  (6 ≤ p.shFineOff ∧ p.shFineOff + 1 ≤ p.bufsz) ∧
  (6 ≤ p.shCkiOff ∧ p.shCkiOff + 1 ≤ p.bufsz) ∧
  p.shCkiBit ≤ 7 ∧
  (p.rxminFloor ≤ p.rxminReset ∧ p.rxminReset ≤ p.bufsz)

/-- The build with every parameter at its default. -/
def Params.defaults : Params := {}

end Sys2Proof
end

