-- ==== Sys2Proof/Machine/State.lean ====
section
/-! DEFINITION. The state of the block as plain data (10_state.md), the state after reset (R52), and
the reasons a step could stop. -/

namespace Sys2Proof.Machine

/-- A sparse byte array: the bytes listed by rising address; an address not listed reads as 0
(`Memory.read`). -/
abbrev Memory := List Host.Cell

/-- A sequence table: the valid entries by rising APID; an APID not listed has `valid` = 0 (R24). -/
abbrev SeqTable := List (Nat × SeqCount)

/-- The framer states of R161, codes 0 to 4 in this order. -/
inductive FState where
  | off
  | header
  | body
  | ready
  | fault
deriving DecidableEq, Repr

/-- The framing variants of R37, codes 0 to 3 in this order. -/
inductive FMode where
  | noFraming
  | fixed
  | ccsds
  | generic
deriving DecidableEq, Repr

/-- The checksum algorithms of R32, codes 0 to 2 in this order; code 3 cannot be held. -/
inductive CkSel where
  | sum
  | crc
  | fletcher
deriving DecidableEq, Repr

/-- The error codes 1 to 8 of R260, in this order; `OK` = 0 is the absence of one. -/
inductive ErrCode where
  | illegal
  | bounds
  | invarg
  | config
  | eof
  | toolong
  | badlen
  | fstate
deriving DecidableEq, Repr

/-- The 27 control registers of R30, in the table's order. -/
inductive CsrName where
  | ckSel | crcIv | rxMin | txMin | txCtl
  | fMode | pktSize | maxLen | lfOff | lfLen | lfOrd | lfAdj | strip
  | fcfgSet | fState | fPos | fTot | fLen
  | event
  | rxFlags | rxSeqId | rxCoarse | rxFine
  | txFlags | txSeq | txCk | txApid
deriving DecidableEq, Repr

/-- The control registers a command can write by `CSRW` (R30, R32 to R45), and `FCFGSET` (R46). -/
structure Csr where
  ckSel : CkSel
  crcIv : Half
  rxMin : BitVec 17
  txMin : BitVec 17
  txCtl : BitVec 1
  fMode : FMode
  pktSize : BitVec 17
  maxLen : BitVec 17
  lfOff : BitVec 17
  lfLen : BitVec 3
  lfOrd : BitVec 1
  lfAdj : Word
  strip : Word
  fcfgSet : BitVec 4
deriving DecidableEq, Repr

/-- The active framing configuration `F.*` that `FINIT` latches (R23, R162). -/
structure FrameCfg where
  mode : FMode
  pktSize : BitVec 17
  maxLen : BitVec 17
  lfOff : BitVec 17
  lfLen : BitVec 3
  lfOrd : BitVec 1
  lfAdj : Word
  strip : Word
  /-- `F.E`: how many stream bytes the header of a packet has. -/
  e : Nat
deriving DecidableEq, Repr

/-- The framer's state (R23). -/
structure Framer where
  fst : FState
  fpos : Nat
  ftot : Nat
  flen : Nat
  fbuf : Memory
  fhdr : Memory
  cfg : FrameCfg
deriving DecidableEq, Repr

/-- The receive result registers (R26). -/
structure RxResult where
  flags : BitVec 6
  seqId : Word
  coarse : Word
  fine : Byte
deriving DecidableEq, Repr

/-- The transmit result registers (R27). -/
structure TxResult where
  flags : Byte
  seq : SeqCount
  ck : Half
  apid : Apid
deriving DecidableEq, Repr

/-- What the host drives on the input pins at one sample of the port: `rst`, `cmd_valid` and
`cmd[63:0]` (R40). -/
structure PortSample where
  rst : Bool
  cmdValid : Bool
  cmd : PortWord
deriving DecidableEq, Repr

/-- The machine. `params` and `port` are not state of the block (R51) but inputs and parameters that
`exec`'s type leaves no other place for; no command writes them. -/
structure State where
  /-- The parameters the block was built with (R5): the model's own field. -/
  params : Params
  /-- The samples the host is still to present, the next one first: the model's own field. -/
  port : List PortSample
  /-- `rsp_valid` and `rsp[63:0]` (R40, R82): the response the last step produced, if it did. -/
  rsp : Option PortWord
  /-- `BUF` (R22): the bytes below `len`. -/
  buf : Memory
  /-- `LEN` (R22). -/
  len : Nat
  fr : Framer
  /-- The table `RXSEQ` (R24). -/
  rxSeq : SeqTable
  /-- The table `TXSEQ` (R24). -/
  txSeq : SeqTable
  /-- `EVENT` (R25). -/
  event : Byte
  rx : RxResult
  tx : TxResult
  csr : Csr
deriving DecidableEq, Repr

/-- The reset values of the control registers (R30). -/
def Csr.atReset (p : Params) : Csr :=
  { ckSel := .crc, crcIv := 0xFFFF, rxMin := BitVec.ofNat 17 p.rxminReset, txMin := 0, txCtl := 0
    fMode := .noFraming, pktSize := 0, maxLen := BitVec.ofNat 17 p.bufsz, lfOff := 0, lfLen := 0
    lfOrd := 0, lfAdj := 0, strip := 0, fcfgSet := 0 }

/-- Every `F.*` is 0 (R52). -/
def FrameCfg.atReset : FrameCfg :=
  { mode := .noFraming, pktSize := 0, maxLen := 0, lfOff := 0, lfLen := 0, lfOrd := 0, lfAdj := 0
    strip := 0, e := 0 }

/-- The framer after reset: `OFF`, every counter 0 (R52). -/
def Framer.atReset : Framer :=
  { fst := .off, fpos := 0, ftot := 0, flen := 0, fbuf := [], fhdr := [], cfg := FrameCfg.atReset }

/-- The reset state of a block built with the parameters `p` (R52, R290). -/
def State.resetWith (p : Params) : State :=
  { params := p, port := [], rsp := none, buf := [], len := 0, fr := Framer.atReset
    rxSeq := [], txSeq := [], event := 0
    rx := { flags := 0, seqId := 0, coarse := 0, fine := 0 }
    tx := { flags := 0, seq := 0, ck := 0, apid := 0 }
    csr := Csr.atReset p }

/-- The machine right after reset (R52), with the default parameters of R5 and no sample presented. -/
def State.reset : State := State.resetWith Params.defaults

/-- The reasons a step could stop with a fault: none. An error never stops the block (R266) and every
command is total (R271): an abnormal outcome is a response with an error code and a next state. Safe:
there is nothing a claim could be excused by. -/
inductive Fault where
deriving DecidableEq, Repr

/-- The reasons a step could have no meaning. -/
inductive Refusal where
  /-- Raised by an arm of `exec` whose instruction has no meaning yet; no arm does. Safe: nothing is
  claimed of such an instruction. -/
  | notModelled (mnemonic : String)
deriving DecidableEq, Repr

end Sys2Proof.Machine
end

