-- ==== Sys2Proof/Machine/Flags.lean ====
section
/-! DEFINITION. Every flag computation: the sticky bits of EVENT (10_state.md R25), RXFLAGS (R26),
TXFLAGS (R27), the sequence identifier (R26) and the packed return values. -/

namespace Sys2Proof.Machine

/-- EVENT bit 0 (R25). -/
def evTooShort : Byte := 0x01

/-- EVENT bit 1 (R25). -/
def evCorrupt : Byte := 0x02

/-- EVENT bit 2 (R25). -/
def evSeqGap : Byte := 0x04

/-- EVENT bit 3 (R25). -/
def evCkFail : Byte := 0x08

/-- EVENT bit 4 (R25). -/
def evTimeFail : Byte := 0x10

/-- EVENT bit 7 (R25, R262). -/
def evErr : Byte := 0x80

/-- `EVENT.X <- EVENT.X | b`: the sticky bits of `mask` are set when `b` holds, never cleared. -/
def setEvent (b : Bool) (mask event : Byte) : Byte := if b then event ||| mask else event

/-- `EVENT <- EVENT & ~v[7:0]` (R31 (5)). -/
def clearEvent (v : Word) (event : Byte) : Byte := event &&& ~~~(v.setWidth 8)

/-- `corrupt << 1 | gap << 2 | shf << 3 | cki << 4 | ckfail << 5`, bit 0 `DROP` = 0 (R26, R201). -/
def packRxFlags (corrupt gap shf cki ckfail : Bool) : BitVec 6 :=
  BitVec.ofBool ckfail ++ BitVec.ofBool cki ++ BitVec.ofBool shf ++ BitVec.ofBool gap ++
    BitVec.ofBool corrupt ++ 0#1

/-- `RXFLAGS` of a dropped packet (R201, R203). -/
def rxFlagsDrop : BitVec 6 := 0b000001

/-- `(apid << 16) | seq` (R26). -/
def packSeqId (apid : Apid) (seq : SeqCount) : Word := 0#5 ++ apid ++ 0#2 ++ seq

/-- Bits 0 to 7: CKI, CKWRITTEN, CKFAIL, SHF, TIMEWRITTEN, TIMEFAIL, MINPAD, EVENPAD (R27, R221). -/
def packTxFlags (cki cw cf shf tw tf minPad evenPad : Bool) : Byte :=
  BitVec.ofBool evenPad ++ BitVec.ofBool minPad ++ BitVec.ofBool tf ++ BitVec.ofBool tw ++
    BitVec.ofBool shf ++ BitVec.ofBool cf ++ BitVec.ofBool cw ++ BitVec.ofBool cki

/-- `seq << 16 | flags`, the value `TXPROC` returns (R221). -/
def packTxReturn (seq : SeqCount) (flags : Byte) : Word := 0#2 ++ seq ++ 0#8 ++ flags

/-- `65536 + l` for a valid entry, 0 for an invalid one (R210, R229). -/
def packSeqEntry (entry : Option SeqCount) : Word :=
  match entry with
  | some l => 0#15 ++ 1#1 ++ 0#2 ++ l
  | none => 0

end Sys2Proof.Machine
end

