-- ==== Sys2Proof/Syntax.lean ====
section
/-! DEFINITION. The 46 commands of 30_encoding.md R83, one constructor per row of
spec/opcode_table.json, each operand at exactly the width the row gives it (R85). -/

namespace Sys2Proof

/-- A command. The operands are those of R83 and R85; `SHDR` has the five header arguments of R86
in the assembler's order of R87. -/
inductive Instr where
  | nop
  | srst
  | csrr (csrno : BitVec 24)
  | csrw (csrno : BitVec 24) (v32 : Word)
  | setlen (n : Word)
  | rdlen
  | rdb (off : BitVec 24)
  | wrb (off : BitVec 24) (byte : Byte)
  | appb (byte : Byte)
  | sum16 (off : BitVec 24) (n : Word)
  | crc16 (off : BitVec 24) (n : Word)
  | flet16 (off : BitVec 24) (n : Word)
  | cksum (off : BitVec 24) (n : Word)
  | gver
  | gtype
  | gshf
  | gapid
  | gseqf
  | gseq
  | glenf
  | gplen
  | gcoarse
  | gfine
  | gcki
  | sver (ver : BitVec 3)
  | stype (type : BitVec 1)
  | sshf (shf : BitVec 1)
  | sapid (apid : Apid)
  | sseqf (seqf : BitVec 2)
  | sseq (seq : SeqCount)
  | slenf (lenf : Half)
  | shdr (type : BitVec 1) (shf : BitVec 1) (apid : Apid) (seqf : BitVec 2) (seq : SeqCount)
  | scoarse (coarse : Word)
  | sfine (fine : Byte)
  | scki (cki : BitVec 1)
  | finit
  | fpush (byte : Byte)
  | feof
  | ftake
  | frst
  | rxproc
  | seqchk (apid : Apid) (seq : SeqCount)
  | seqget (apid : Apid)
  | txproc (fine : Byte) (coarse : Word)
  | seqnext (apid : Apid)
  | txseqget (apid : Apid)
deriving DecidableEq, Repr

end Sys2Proof
end

