-- ==== Sys2Proof/WellFormed.lean ====
section
/-! DEFINITION. What makes a command word legal (30_encoding.md R81, R84): its opcode is assigned and
every bit of `a` and `b` that its row gives to no operand is 0. A term of `Instr` carries its operand
widths in its types, so there is nothing left to check on it: the checks are on the raw command. -/

namespace Sys2Proof

/-- The three fields of a command word before its opcode is looked at (R80). -/
structure RawCommand where
  op : Byte
  a : BitVec 24
  b : Word
deriving DecidableEq, Repr

/-- The widths of the low bits of `a` and of `b` that the command of opcode `op` uses as operands
(R83; the ranges of R85 and R86), or none for one of the 210 unassigned opcodes (R84). -/
def operandWidths (op : Byte) : Option (Nat × Nat) :=
  match op.toNat with
  | 0x00 => some (0, 0)
  | 0x01 => some (0, 0)
  | 0x02 => some (24, 0)
  | 0x03 => some (24, 32)
  | 0x04 => some (0, 32)
  | 0x05 => some (0, 0)
  | 0x06 => some (24, 0)
  | 0x07 => some (24, 8)
  | 0x08 => some (0, 8)
  | 0x10 => some (24, 32)
  | 0x11 => some (24, 32)
  | 0x12 => some (24, 32)
  | 0x13 => some (24, 32)
  | 0x20 => some (0, 0)
  | 0x21 => some (0, 0)
  | 0x22 => some (0, 0)
  | 0x23 => some (0, 0)
  | 0x24 => some (0, 0)
  | 0x25 => some (0, 0)
  | 0x26 => some (0, 0)
  | 0x27 => some (0, 0)
  | 0x28 => some (0, 0)
  | 0x29 => some (0, 0)
  | 0x2A => some (0, 0)
  | 0x30 => some (0, 3)
  | 0x31 => some (0, 1)
  | 0x32 => some (0, 1)
  | 0x33 => some (0, 11)
  | 0x34 => some (0, 2)
  | 0x35 => some (0, 14)
  | 0x36 => some (0, 16)
  | 0x37 => some (0, 29)
  | 0x38 => some (0, 32)
  | 0x39 => some (0, 8)
  | 0x3A => some (0, 1)
  | 0x40 => some (0, 0)
  | 0x41 => some (0, 8)
  | 0x42 => some (0, 0)
  | 0x43 => some (0, 0)
  | 0x44 => some (0, 0)
  | 0x50 => some (0, 0)
  | 0x51 => some (11, 14)
  | 0x52 => some (11, 0)
  | 0x60 => some (8, 32)
  | 0x61 => some (11, 0)
  | 0x62 => some (11, 0)
  | _ => none

/-- The opcode is one of the 46 of R83. -/
def RawCommand.opAssigned (c : RawCommand) : Bool := (operandWidths c.op).isSome

/-- The bits of `a` above the operand are 0 (R81). -/
def RawCommand.aClear (c : RawCommand) : Bool :=
  match operandWidths c.op with
  | some (wa, _) => c.a.toNat < 2 ^ wa
  | none => false

/-- The bits of `b` above the operand are 0 (R81). -/
def RawCommand.bClear (c : RawCommand) : Bool :=
  match operandWidths c.op with
  | some (_, wb) => c.b.toNat < 2 ^ wb
  | none => false

/-- A legal command: R84's two conditions. -/
def RawCommand.wellFormed (c : RawCommand) : Bool := c.opAssigned && c.aClear && c.bClear

/-- The `match` and `mask` columns of spec/opcode_table.json, row by row in the table's order. -/
def opcodeRows : List (PortWord × PortWord) :=
  [ (0x0000000000000000, 0xFFFFFFFFFFFFFFFF), (0x0100000000000000, 0xFFFFFFFFFFFFFFFF),
    (0x0200000000000000, 0xFF000000FFFFFFFF), (0x0300000000000000, 0xFF00000000000000),
    (0x0400000000000000, 0xFFFFFFFF00000000), (0x0500000000000000, 0xFFFFFFFFFFFFFFFF),
    (0x0600000000000000, 0xFF000000FFFFFFFF), (0x0700000000000000, 0xFF000000FFFFFF00),
    (0x0800000000000000, 0xFFFFFFFFFFFFFF00) ] ++
  [ (0x1000000000000000, 0xFF00000000000000), (0x1100000000000000, 0xFF00000000000000),
    (0x1200000000000000, 0xFF00000000000000), (0x1300000000000000, 0xFF00000000000000) ] ++
  [ (0x2000000000000000, 0xFFFFFFFFFFFFFFFF), (0x2100000000000000, 0xFFFFFFFFFFFFFFFF),
    (0x2200000000000000, 0xFFFFFFFFFFFFFFFF), (0x2300000000000000, 0xFFFFFFFFFFFFFFFF),
    (0x2400000000000000, 0xFFFFFFFFFFFFFFFF), (0x2500000000000000, 0xFFFFFFFFFFFFFFFF),
    (0x2600000000000000, 0xFFFFFFFFFFFFFFFF), (0x2700000000000000, 0xFFFFFFFFFFFFFFFF),
    (0x2800000000000000, 0xFFFFFFFFFFFFFFFF), (0x2900000000000000, 0xFFFFFFFFFFFFFFFF),
    (0x2A00000000000000, 0xFFFFFFFFFFFFFFFF) ] ++
  [ (0x3000000000000000, 0xFFFFFFFFFFFFFFF8), (0x3100000000000000, 0xFFFFFFFFFFFFFFFE),
    (0x3200000000000000, 0xFFFFFFFFFFFFFFFE), (0x3300000000000000, 0xFFFFFFFFFFFFF800),
    (0x3400000000000000, 0xFFFFFFFFFFFFFFFC), (0x3500000000000000, 0xFFFFFFFFFFFFC000),
    (0x3600000000000000, 0xFFFFFFFFFFFF0000), (0x3700000000000000, 0xFFFFFFFFE0000000),
    (0x3800000000000000, 0xFFFFFFFF00000000), (0x3900000000000000, 0xFFFFFFFFFFFFFF00),
    (0x3A00000000000000, 0xFFFFFFFFFFFFFFFE) ] ++
  [ (0x4000000000000000, 0xFFFFFFFFFFFFFFFF), (0x4100000000000000, 0xFFFFFFFFFFFFFF00),
    (0x4200000000000000, 0xFFFFFFFFFFFFFFFF), (0x4300000000000000, 0xFFFFFFFFFFFFFFFF),
    (0x4400000000000000, 0xFFFFFFFFFFFFFFFF) ] ++
  [ (0x5000000000000000, 0xFFFFFFFFFFFFFFFF), (0x5100000000000000, 0xFFFFF800FFFFC000),
    (0x5200000000000000, 0xFFFFF800FFFFFFFF) ] ++
  [ (0x6000000000000000, 0xFFFFFF0000000000), (0x6100000000000000, 0xFFFFF800FFFFFFFF),
    (0x6200000000000000, 0xFFFFF800FFFFFFFF) ]

/-- The word matches some row of the table: `(word & mask) == match` (R81). -/
def wordMatchesRow (w : PortWord) : Bool := opcodeRows.any fun r => w &&& r.2 == r.1

end Sys2Proof
end

