-- ==== Sys2Proof/Decode.lean ====
section
/-! DEFINITION. The decoder of a command word, total and rejecting by name (30_encoding.md R80, R81,
R83 to R86), and the encoder written from the same map. -/

namespace Sys2Proof

/-- Why a word is illegal (R84). Both reasons answer `E_ILLEGAL`. -/
inductive DecodeError where
  /-- The opcode is none of the 46 of R83. Raised by `decode`; safe, the spec says so (R84). -/
  | unknownOpcode (op : Byte)
  /-- A bit that R81 requires to be 0 is 1. Raised by `decode`; safe, the spec says so (R84). -/
  | mustBeZero (op : Byte)
deriving DecidableEq, Repr

/-- `op = w[63:56]`, `a = w[55:32]`, `b = w[31:0]` (R80). -/
def splitWord (w : PortWord) : RawCommand :=
  { op := w.extractLsb' 56 8, a := w.extractLsb' 32 24, b := w.setWidth 32 }

/-- The command an assigned opcode selects, its operands the low bits R83 and R86 name; the other
bits are not looked at here. -/
def buildInstr (c : RawCommand) : Option Instr :=
  match c.op.toNat with
  | 0x00 => some .nop
  | 0x01 => some .srst
  | 0x02 => some (.csrr c.a)
  | 0x03 => some (.csrw c.a c.b)
  | 0x04 => some (.setlen c.b)
  | 0x05 => some .rdlen
  | 0x06 => some (.rdb c.a)
  | 0x07 => some (.wrb c.a (c.b.setWidth 8))
  | 0x08 => some (.appb (c.b.setWidth 8))
  | 0x10 => some (.sum16 c.a c.b)
  | 0x11 => some (.crc16 c.a c.b)
  | 0x12 => some (.flet16 c.a c.b)
  | 0x13 => some (.cksum c.a c.b)
  | 0x20 => some .gver
  | 0x21 => some .gtype
  | 0x22 => some .gshf
  | 0x23 => some .gapid
  | 0x24 => some .gseqf
  | 0x25 => some .gseq
  | 0x26 => some .glenf
  | 0x27 => some .gplen
  | 0x28 => some .gcoarse
  | 0x29 => some .gfine
  | 0x2A => some .gcki
  | 0x30 => some (.sver (c.b.setWidth 3))
  | 0x31 => some (.stype (c.b.setWidth 1))
  | 0x32 => some (.sshf (c.b.setWidth 1))
  | 0x33 => some (.sapid (c.b.setWidth 11))
  | 0x34 => some (.sseqf (c.b.setWidth 2))
  | 0x35 => some (.sseq (c.b.setWidth 14))
  | 0x36 => some (.slenf (c.b.setWidth 16))
  | 0x37 => some (.shdr (c.b.extractLsb' 28 1) (c.b.extractLsb' 27 1) (c.b.extractLsb' 16 11)
      (c.b.extractLsb' 14 2) (c.b.setWidth 14))
  | 0x38 => some (.scoarse c.b)
  | 0x39 => some (.sfine (c.b.setWidth 8))
  | 0x3A => some (.scki (c.b.setWidth 1))
  | 0x40 => some .finit
  | 0x41 => some (.fpush (c.b.setWidth 8))
  | 0x42 => some .feof
  | 0x43 => some .ftake
  | 0x44 => some .frst
  | 0x50 => some .rxproc
  | 0x51 => some (.seqchk (c.a.setWidth 11) (c.b.setWidth 14))
  | 0x52 => some (.seqget (c.a.setWidth 11))
  | 0x60 => some (.txproc (c.a.setWidth 8) c.b)
  | 0x61 => some (.seqnext (c.a.setWidth 11))
  | 0x62 => some (.txseqget (c.a.setWidth 11))
  | _ => none

/-- The decoder of one command word (R81, R84). -/
def decode (w : PortWord) : Except DecodeError Instr :=
  let c := splitWord w
  match buildInstr c with
  | none => .error (.unknownOpcode c.op)
  | some i => if c.wellFormed then .ok i else .error (.mustBeZero c.op)

/-- The instruction the decoder reads from a word numbered as spec/opcode_table.json numbers it: one
64-bit word, bit 0 the least significant, the bits from `nbits` up 0. -/
def decodeTableWord (nbits w : Nat) : Option Instr :=
  match decode (BitVec.ofNat 64 (w % 2 ^ nbits)) with
  | .ok i => some i
  | .error _ => none

/-- `op << 56 | a << 32 | b` (R87). -/
def packWord (op : Byte) (a : BitVec 24) (b : Word) : PortWord := op ++ a ++ b

/-- The `b` operand of `SHDR`: bits 31:29 zero, then type, secondary-header flag, APID, sequence
flags, sequence count (R86). -/
def shdrOperand (type shf : BitVec 1) (apid : Apid) (seqf : BitVec 2) (seq : SeqCount) : Word :=
  0#3 ++ type ++ shf ++ apid ++ seqf ++ seq

/-- The one word of a command (R80, R81, R83): every bit that is no operand is 0. -/
def encode (i : Instr) : PortWord :=
  match i with
  | .nop => packWord 0x00 0 0
  | .srst => packWord 0x01 0 0
  | .csrr csrno => packWord 0x02 csrno 0
  | .csrw csrno v32 => packWord 0x03 csrno v32
  | .setlen n => packWord 0x04 0 n
  | .rdlen => packWord 0x05 0 0
  | .rdb off => packWord 0x06 off 0
  | .wrb off byte => packWord 0x07 off (byte.setWidth 32)
  | .appb byte => packWord 0x08 0 (byte.setWidth 32)
  | .sum16 off n => packWord 0x10 off n
  | .crc16 off n => packWord 0x11 off n
  | .flet16 off n => packWord 0x12 off n
  | .cksum off n => packWord 0x13 off n
  | .gver => packWord 0x20 0 0
  | .gtype => packWord 0x21 0 0
  | .gshf => packWord 0x22 0 0
  | .gapid => packWord 0x23 0 0
  | .gseqf => packWord 0x24 0 0
  | .gseq => packWord 0x25 0 0
  | .glenf => packWord 0x26 0 0
  | .gplen => packWord 0x27 0 0
  | .gcoarse => packWord 0x28 0 0
  | .gfine => packWord 0x29 0 0
  | .gcki => packWord 0x2A 0 0
  | .sver ver => packWord 0x30 0 (ver.setWidth 32)
  | .stype type => packWord 0x31 0 (type.setWidth 32)
  | .sshf shf => packWord 0x32 0 (shf.setWidth 32)
  | .sapid apid => packWord 0x33 0 (apid.setWidth 32)
  | .sseqf seqf => packWord 0x34 0 (seqf.setWidth 32)
  | .sseq seq => packWord 0x35 0 (seq.setWidth 32)
  | .slenf lenf => packWord 0x36 0 (lenf.setWidth 32)
  | .shdr type shf apid seqf seq => packWord 0x37 0 (shdrOperand type shf apid seqf seq)
  | .scoarse coarse => packWord 0x38 0 coarse
  | .sfine fine => packWord 0x39 0 (fine.setWidth 32)
  | .scki cki => packWord 0x3A 0 (cki.setWidth 32)
  | .finit => packWord 0x40 0 0
  | .fpush byte => packWord 0x41 0 (byte.setWidth 32)
  | .feof => packWord 0x42 0 0
  | .ftake => packWord 0x43 0 0
  | .frst => packWord 0x44 0 0
  | .rxproc => packWord 0x50 0 0
  | .seqchk apid seq => packWord 0x51 (apid.setWidth 24) (seq.setWidth 32)
  | .seqget apid => packWord 0x52 (apid.setWidth 24) 0
  | .txproc fine coarse => packWord 0x60 (fine.setWidth 24) coarse
  | .seqnext apid => packWord 0x61 (apid.setWidth 24) 0
  | .txseqget apid => packWord 0x62 (apid.setWidth 24) 0

end Sys2Proof
end

