-- ==== Sys2Proof/Machine/Operands.lean ====
section
/-! DEFINITION. The operand forms: the fields of the primary header (42_ccsds_header.md R120), the
packed operand of `SHDR` (30_encoding.md R86), the numbers and codes of the control registers
(10_state.md R30, R31) and the signed reading of `LFADJ` (R44). -/

namespace Sys2Proof.Machine

/-- version = `W0[15:13]` (R120). -/
def hdrVersion (w0 : Half) : BitVec 3 := w0.extractLsb' 13 3

/-- type = `W0[12]` (R120). -/
def hdrType (w0 : Half) : BitVec 1 := w0.extractLsb' 12 1

/-- secondary-header flag = `W0[11]` (R120). -/
def hdrShf (w0 : Half) : BitVec 1 := w0.extractLsb' 11 1

/-- APID = `W0[10:0]` (R120). -/
def hdrApid (w0 : Half) : Apid := w0.extractLsb' 0 11

/-- sequence flags = `W1[15:14]` (R120). -/
def hdrSeqFlags (w1 : Half) : BitVec 2 := w1.extractLsb' 14 2

/-- sequence count = `W1[13:0]` (R120). -/
def hdrSeqCount (w1 : Half) : SeqCount := w1.extractLsb' 0 14

/-- `(w & 0x1FFF) | (v << 13)` (R132). -/
def setVersion (v : BitVec 3) (w0 : Half) : Half := (w0 &&& 0x1FFF) ||| (v.setWidth 16 <<< 13)

/-- `(w & 0xEFFF) | (v << 12)` (R133). -/
def setType (v : BitVec 1) (w0 : Half) : Half := (w0 &&& 0xEFFF) ||| (v.setWidth 16 <<< 12)

/-- `(w & 0xF7FF) | (v << 11)` (R134). -/
def setShf (v : BitVec 1) (w0 : Half) : Half := (w0 &&& 0xF7FF) ||| (v.setWidth 16 <<< 11)

/-- `(w & 0xF800) | v` (R135). -/
def setApid (v : Apid) (w0 : Half) : Half := (w0 &&& 0xF800) ||| v.setWidth 16

/-- `(w & 0x3FFF) | (v << 14)` (R136). -/
def setSeqFlags (v : BitVec 2) (w1 : Half) : Half := (w1 &&& 0x3FFF) ||| (v.setWidth 16 <<< 14)

/-- `(w & 0xC000) | v` (R137, R221 (e)). -/
def setSeqCount (v : SeqCount) (w1 : Half) : Half := (w1 &&& 0xC000) ||| v.setWidth 16

/-- Bit `k` of the indicator byte (R144). -/
def ckiBit (k : Nat) (x : Byte) : Bool := x.getLsbD k

/-- `(x & ~(1 << k) & 0xFF) | (v << k)` (R145). -/
def setCkiBit (k : Nat) (v : BitVec 1) (x : Byte) : Byte :=
  (x &&& ~~~(1#8 <<< k)) ||| (v.setWidth 8 <<< k)

/-- The packed operand of `SHDR`, the first four header bytes with the version bits 0 (R86). -/
def shdrHeader (type shf : BitVec 1) (apid : Apid) (seqf : BitVec 2) (seq : SeqCount) : Word :=
  shdrOperand type shf apid seqf seq

/-- The control register of a number, if there is one (R30). -/
def csrOfNum (csrno : BitVec 24) : Option CsrName :=
  match csrno.toNat with
  | 0x00 => some .ckSel
  | 0x01 => some .crcIv
  | 0x02 => some .rxMin
  | 0x03 => some .txMin
  | 0x04 => some .txCtl
  | 0x08 => some .fMode
  | 0x09 => some .pktSize
  | 0x0A => some .maxLen
  | 0x0B => some .lfOff
  | 0x0C => some .lfLen
  | 0x0D => some .lfOrd
  | 0x0E => some .lfAdj
  | 0x0F => some .strip
  | 0x10 => some .fcfgSet
  | 0x11 => some .fState
  | 0x12 => some .fPos
  | 0x13 => some .fTot
  | 0x14 => some .fLen
  | 0x18 => some .event
  | 0x20 => some .rxFlags
  | 0x21 => some .rxSeqId
  | 0x22 => some .rxCoarse
  | 0x23 => some .rxFine
  | 0x28 => some .txFlags
  | 0x29 => some .txSeq
  | 0x2A => some .txCk
  | 0x2B => some .txApid
  | _ => none

/-- The registers of access RO in R30. -/
def csrReadOnly (r : CsrName) : Bool :=
  match r with
  | .ckSel | .crcIv | .rxMin | .txMin | .txCtl => false
  | .fMode | .pktSize | .maxLen | .lfOff | .lfLen | .lfOrd | .lfAdj | .strip => false
  | .event => false
  | .fcfgSet | .fState | .fPos | .fTot | .fLen => true
  | .rxFlags | .rxSeqId | .rxCoarse | .rxFine => true
  | .txFlags | .txSeq | .txCk | .txApid => true

/-- The code of a framer state (R23, R161). -/
def fstateCode (f : FState) : Nat :=
  match f with
  | .off => 0
  | .header => 1
  | .body => 2
  | .ready => 3
  | .fault => 4

/-- The code of a framing variant (R37). -/
def fmodeCode (m : FMode) : Nat :=
  match m with
  | .noFraming => 0
  | .fixed => 1
  | .ccsds => 2
  | .generic => 3

/-- The framing variant of a legal code (R37). -/
def fmodeOfCode (v : Word) : FMode :=
  match v.toNat with
  | 1 => .fixed
  | 2 => .ccsds
  | 3 => .generic
  | _ => .noFraming

/-- The code of a checksum algorithm (R32). -/
def ckselCode (c : CkSel) : Nat :=
  match c with
  | .sum => 0
  | .crc => 1
  | .fletcher => 2

/-- The checksum algorithm of a legal code (R32). -/
def ckselOfCode (v : Word) : CkSel :=
  match v.toNat with
  | 0 => .sum
  | 2 => .fletcher
  | _ => .crc

/-- The code of an error in the response (R260). -/
def errCode (e : ErrCode) : Byte :=
  match e with
  | .illegal => 1
  | .bounds => 2
  | .invarg => 3
  | .config => 4
  | .eof => 5
  | .toolong => 6
  | .badlen => 7
  | .fstate => 8

/-- `sext_32` (R9), used for `LFADJ` only (R44). -/
def sext32 (v : Word) : Int := v.toInt

end Sys2Proof.Machine
end

