-- ==== Sys2Proof/Machine/Sparse.lean ====
section
/-! DEFINITION. Sparse maps from natural numbers, the one form in which BUF, FBUF, FHDR and the two
sequence tables are held: a list of pairs with strictly rising keys. -/

namespace Sys2Proof.Machine

/-- The value listed for the key `a`, if any. -/
def sparseGet {α : Type} (m : List (Nat × α)) (a : Nat) : Option α :=
  match m with
  | [] => none
  | (k, v) :: rest => if k = a then some v else sparseGet rest a

/-- The map without the key `a`. -/
def sparseDel {α : Type} (m : List (Nat × α)) (a : Nat) : List (Nat × α) :=
  m.filter fun c => !(c.1 == a)

/-- The pair `(a, v)` put before the first larger key. -/
def sparseIns {α : Type} (m : List (Nat × α)) (a : Nat) (v : α) : List (Nat × α) :=
  match m with
  | [] => [(a, v)]
  | (k, w) :: rest => if a < k then (a, v) :: (k, w) :: rest else (k, w) :: sparseIns rest a v

/-- The map with the value of `a` replaced by `v`. -/
def sparseSet {α : Type} (m : List (Nat × α)) (a : Nat) (v : α) : List (Nat × α) :=
  sparseIns (sparseDel m a) a v

/-- The map's keys below `n`. -/
def sparseBelow {α : Type} (m : List (Nat × α)) (n : Nat) : List (Nat × α) :=
  m.filter fun c => decide (c.1 < n)

/-- The keys rise strictly. -/
def sparseSorted {α : Type} (m : List (Nat × α)) : Bool :=
  match m with
  | [] => true
  | (k, _) :: rest => rest.all (fun c => decide (k < c.1)) && sparseSorted rest

end Sys2Proof.Machine
end

