-- ==== Sys2Proof/Machine/Ops.lean ====
section
/-! DEFINITION. The named operations over memory, tables and responses: `MemRead` and `MemWrite`
(00_scope.md R9, 20_memory.md R61, R62), the response (30_encoding.md R82), and raising an error
(60_exceptions.md R260, R262), the block's only form of exception. There is no trap entry and no
return from one (R268). -/

namespace Sys2Proof.Machine

/-- What a step of this machine answers. -/
abbrev Result := Host.Outcome State Fault Refusal

/-- The byte at address `a`: an address not listed reads as 0. -/
def Memory.read (m : Memory) (a : Nat) : Byte := (sparseGet m a).getD 0

/-- The memory with the byte `v` at address `a`, in canonical form. -/
def Memory.write (m : Memory) (a : Nat) (v : Byte) : Memory :=
  if v = 0 then sparseDel m a else sparseSet m a v

/-- The memory with every byte at `n` and above forgotten, so that it reads as 0. -/
def Memory.below (m : Memory) (n : Nat) : Memory := sparseBelow m n

/-- The canonical form: addresses strictly rising and no listed byte equal to 0. -/
def Memory.wf (m : Memory) : Bool := sparseSorted m && m.all fun c => c.2 != 0

/-- The `n` bytes from address `off` on, in rising order. -/
def Memory.bytes (m : Memory) (off n : Nat) : List Byte :=
  match n with
  | 0 => []
  | n + 1 => Memory.read m off :: Memory.bytes m (off + 1) n

/-- Two bytes, the lower address more significant (R61). -/
def Memory.read2 (m : Memory) (a : Nat) : Half := Memory.read m a ++ Memory.read m (a + 1)

/-- Four bytes, the lowest address most significant (R61). -/
def Memory.read4 (m : Memory) (a : Nat) : Word :=
  Memory.read m a ++ Memory.read m (a + 1) ++ Memory.read m (a + 2) ++ Memory.read m (a + 3)

/-- Two bytes stored, the more significant at the lower address (R62). -/
def Memory.write2 (m : Memory) (a : Nat) (v : Half) : Memory :=
  Memory.write (Memory.write m a (v.extractLsb' 8 8)) (a + 1) (v.extractLsb' 0 8)

/-- Four bytes stored, the most significant at the lowest address (R62). -/
def Memory.write4 (m : Memory) (a : Nat) (v : Word) : Memory :=
  Memory.write2 (Memory.write2 m a (v.extractLsb' 16 16)) (a + 2) (v.extractLsb' 0 16)

/-- `MemRead(addr, 1)` (R61, R63). -/
def memRead1 (s : State) (addr : Nat) : Except ErrCode Byte :=
  if addr + 1 ≤ s.len then .ok (Memory.read s.buf addr) else .error .bounds

/-- `MemRead(addr, 2)` (R61, R63). -/
def memRead2 (s : State) (addr : Nat) : Except ErrCode Half :=
  if addr + 2 ≤ s.len then .ok (Memory.read2 s.buf addr) else .error .bounds

/-- `MemRead(addr, 4)` (R61, R63). -/
def memRead4 (s : State) (addr : Nat) : Except ErrCode Word :=
  if addr + 4 ≤ s.len then .ok (Memory.read4 s.buf addr) else .error .bounds

/-- `MemWrite(addr, 1, v)` (R62, R63). -/
def memWrite1 (s : State) (addr : Nat) (v : Byte) : Except ErrCode State :=
  if addr + 1 ≤ s.len then .ok { s with buf := Memory.write s.buf addr v } else .error .bounds

/-- `MemWrite(addr, 2, v)` (R62, R63). -/
def memWrite2 (s : State) (addr : Nat) (v : Half) : Except ErrCode State :=
  if addr + 2 ≤ s.len then .ok { s with buf := Memory.write2 s.buf addr v } else .error .bounds

/-- `MemWrite(addr, 4, v)` (R62, R63). -/
def memWrite4 (s : State) (addr : Nat) (v : Word) : Except ErrCode State :=
  if addr + 4 ≤ s.len then .ok { s with buf := Memory.write4 s.buf addr v } else .error .bounds

/-- `x <- MemRead(addr, 1); MemWrite(addr, 1, f x)`. -/
def memUpdate1 (s : State) (addr : Nat) (f : Byte → Byte) : Except ErrCode State :=
  match memRead1 s addr with
  | .ok x => memWrite1 s addr (f x)
  | .error e => .error e

/-- `w <- MemRead(addr, 2); MemWrite(addr, 2, f w)`. -/
def memUpdate2 (s : State) (addr : Nat) (f : Half → Half) : Except ErrCode State :=
  match memRead2 s addr with
  | .ok w => memWrite2 s addr (f w)
  | .error e => .error e

/-- The response word: bits 63:40 zero, `err`, `val` (R82). -/
def rspWord (err : Byte) (val : Word) : PortWord := 0#24 ++ err ++ val

/-- `return v`: the command ends with `OK` and the value `v` (R9, R82). -/
def respond (v : Word) (s : State) : Result := .next { s with rsp := some (rspWord 0 v) }

/-- `raise e`: the command ends with the error code `e` and value 0, and EVENT.ERR is set (R9, R82,
R262). The state `s` is the one the raise leaves: for every command but FPUSH, FINIT and FEOF the
state before the command (R263). -/
def raise (e : ErrCode) (s : State) : Result :=
  .next { s with rsp := some (rspWord (errCode e) 0), event := setEvent true evErr s.event }

/-- The end of a command that only reads: its value, or the error and no state changed. -/
def finishRead (r : Except ErrCode Word) (s : State) : Result :=
  match r with
  | .ok v => respond v s
  | .error e => raise e s

/-- The end of a command that writes and returns 0, or raises with no state changed. -/
def finishWrite (r : Except ErrCode State) (s : State) : Result :=
  match r with
  | .ok s' => respond 0 s'
  | .error e => raise e s

/-- The entry of a sequence table: the last count if `valid` = 1 (R24). -/
def seqGet (t : SeqTable) (apid : Apid) : Option SeqCount := sparseGet t apid.toNat

/-- `T[apid] <- (1, seq)` (R24). -/
def seqSet (t : SeqTable) (apid : Apid) (seq : SeqCount) : SeqTable := sparseSet t apid.toNat seq

/-- Whether `seqcheck(apid, seq)` reports a gap (R208). -/
def seqGap (t : SeqTable) (apid : Apid) (seq : SeqCount) : Bool :=
  match seqGet t apid with
  | some l => seq != l + 1
  | none => false

/-- The count `seqnext(apid)` assigns (R223). -/
def seqNextCount (t : SeqTable) (first : SeqCount) (apid : Apid) : SeqCount :=
  match seqGet t apid with
  | some l => l + 1
  | none => first

/-- The effective checksum indicator `cki_eff` of a packet with `LEN >= 6` (R146). -/
def ckiEff (s : State) : Bool :=
  hdrShf (Memory.read2 s.buf 0) == 1 && decide (s.params.shCkiOff < s.len) &&
    ckiBit s.params.shCkiBit (Memory.read s.buf s.params.shCkiOff)

/-- Every piece of state takes its reset value, as `rst` and `SRST` do (R241, R290). The parameters
and the samples the host is still to present are no state of the block and stay (R51). -/
def resetState (s : State) : State := { State.resetWith s.params with port := s.port }

end Sys2Proof.Machine
end

