-- ==== Sys2Proof/Machine/Buffer.lean ====
section
/-! DEFINITION. The buffer commands SETLEN, RDLEN, RDB, WRB, APPB (46_buffer_system.md R244 to
R248). -/

namespace Sys2Proof.Machine

/-- The packet cut or grown to `n` bytes: bytes cut off are lost, bytes added are zero (R244). -/
def setLength (s : State) (n : Nat) : State :=
  { s with buf := Memory.below s.buf (min s.len n), len := n }

/-- SETLEN (R244). -/
def execSetlen (n : Word) (s : State) : Result :=
  if s.params.bufsz < n.toNat then raise .bounds s else respond 0 (setLength s n.toNat)

/-- RDLEN (R245). -/
def execRdlen (s : State) : Result := respond (BitVec.ofNat 32 s.len) s

/-- RDB (R246). -/
def execRdb (off : BitVec 24) (s : State) : Result :=
  finishRead ((memRead1 s off.toNat).map fun x => x.setWidth 32) s

/-- WRB (R247). -/
def execWrb (off : BitVec 24) (byte : Byte) (s : State) : Result :=
  finishWrite (memWrite1 s off.toNat byte) s

/-- APPB (R248). -/
def execAppb (byte : Byte) (s : State) : Result :=
  if s.params.bufsz ≤ s.len then raise .bounds s
  else respond (BitVec.ofNat 32 (s.len + 1))
    { s with buf := Memory.write s.buf s.len byte, len := s.len + 1 }

end Sys2Proof.Machine
end

