-- ==== Sys2Proof/Machine/Checksum.lean ====
section
/-! DEFINITION. The checksum unit: SUM16, CRC16, FLET16, CKSUM (41_checksum.md R100 to R111). -/

namespace Sys2Proof.Machine

/-- The sum modulo 2^16 of the big-endian 16-bit words of an even number of bytes, started at `s`
(R101, R102). -/
def sum16From (s : Half) (bytes : List Byte) : Half :=
  match bytes with
  | hi :: lo :: rest => sum16From (s + (hi ++ lo)) rest
  | _ => s

/-- One shift of the CRC register, polynomial 0x1021 (R103). -/
def crcShift (c : Half) : Half := if c.msb then (c <<< 1) ^^^ 0x1021 else c <<< 1

/-- `n` shifts of the CRC register. -/
def crcShifts (n : Nat) (c : Half) : Half :=
  match n with
  | 0 => c
  | n + 1 => crcShifts n (crcShift c)

/-- One byte entering at bits 15:8, most significant bit first (R103). -/
def crcByte (c : Half) (x : Byte) : Half := crcShifts 8 (c ^^^ (x ++ 0#8))

/-- The CRC of a run of bytes with the initial value `iv`, neither reflected nor inverted (R103,
R104). -/
def crc16From (iv : Half) (bytes : List Byte) : Half := bytes.foldl crcByte iv

/-- One byte into the two sums modulo 255 (R106). -/
def fletcherByte (c : Nat × Nat) (x : Byte) : Nat × Nat :=
  let c0 := (c.1 + x.toNat) % 255
  (c0, (c.2 + c0) % 255)

/-- `c1 * 256 + c0` after the bytes, both sums started at 0 (R106, R107). -/
def fletcher16 (bytes : List Byte) : Half :=
  let c := bytes.foldl fletcherByte (0, 0)
  BitVec.ofNat 16 (c.2 * 256 + c.1)

/-- `cksum(sel, off, n)` over the bytes of the range; none is the token FAIL (R110). -/
def cksumOf (sel : CkSel) (iv : Half) (bytes : List Byte) : Option Half :=
  match sel with
  | .sum => if bytes.length % 2 = 1 then none else some (sum16From 0 bytes)
  | .crc => some (crc16From iv bytes)
  | .fletcher => some (fletcher16 bytes)

/-- The range rule R100: `f` of the bytes `BUF[off .. off+n)`, or E_BOUNDS. -/
def overRange (off : BitVec 24) (n : Word) (f : List Byte → Half) (s : State) : Result :=
  if off.toNat + n.toNat ≤ s.len then
    respond ((f (Memory.bytes s.buf off.toNat n.toNat)).setWidth 32) s
  else raise .bounds s

/-- SUM16 (R101): parity is tested before the range. -/
def execSum16 (off : BitVec 24) (n : Word) (s : State) : Result :=
  if n.toNat % 2 = 1 then raise .invarg s else overRange off n (sum16From 0) s

/-- CRC16 (R103). -/
def execCrc16 (off : BitVec 24) (n : Word) (s : State) : Result :=
  overRange off n (crc16From s.csr.crcIv) s

/-- FLET16 (R106). -/
def execFlet16 (off : BitVec 24) (n : Word) (s : State) : Result := overRange off n fletcher16 s

/-- CKSUM (R111): with the sum selected, parity is tested before the range; FAIL cannot occur after
that test. -/
def execCksum (off : BitVec 24) (n : Word) (s : State) : Result :=
  if s.csr.ckSel = .sum ∧ n.toNat % 2 = 1 then raise .invarg s
  else overRange off n (fun bytes => (cksumOf s.csr.ckSel s.csr.crcIv bytes).getD 0) s

end Sys2Proof.Machine
end

