-- ==== Sys2Proof/Machine/FramerUnit.lean ====
section
/-! DEFINITION. The packet framer: FINIT, FPUSH, FEOF, FTAKE, FRST (43_framer.md R160 to R173). -/

namespace Sys2Proof.Machine

/-- `restart()`: the next packet starts (R162). -/
def framerRestart (f : Framer) : Framer :=
  if f.cfg.mode = .fixed then
    { f with fpos := 0, flen := 0, ftot := f.cfg.pktSize.toNat, fst := .body }
  else { f with fpos := 0, flen := 0, ftot := 0, fst := .header }

/-- `FST <- OFF; FPOS <- 0; FTOT <- 0; FLEN <- 0` (R162, R165, R167). -/
def framerOff (f : Framer) : Framer := { f with fst := .off, fpos := 0, ftot := 0, flen := 0 }

/-- The construction check of `FINIT`: the header length `E` where it passes (R162). -/
def finitHeader (bufsz : Nat) (c : Csr) : Option Nat :=
  match c.fMode with
  | .noFraming => none
  | .fixed => if 1 ≤ c.pktSize.toNat then some 0 else none
  | .ccsds => if 7 ≤ c.maxLen.toNat then some 6 else none
  | .generic =>
    if c.fcfgSet = 0b1111 ∧ c.lfOff.toNat + c.lfLen.toNat ≤ bufsz then
      some (c.lfOff.toNat + c.lfLen.toNat)
    else none

/-- The copies `FINIT` takes of the framing registers (R162): `STRIP` only in the generic mode. -/
def finitLatch (c : Csr) (e : Nat) : FrameCfg :=
  { mode := c.fMode, pktSize := c.pktSize, maxLen := c.maxLen, lfOff := c.lfOff, lfLen := c.lfLen
    lfOrd := c.lfOrd, lfAdj := c.lfAdj, strip := if c.fMode = .generic then c.strip else 0, e := e }

/-- FINIT (R162). On a failed check the framer is left OFF. -/
def execFinit (s : State) : Result :=
  match finitHeader s.params.bufsz s.csr with
  | none => raise .config { s with fr := framerOff s.fr }
  | some e => respond 0 { s with fr := framerRestart { s.fr with cfg := finitLatch s.csr e } }

/-- The bytes of the length field as a number, the first the most significant (R170). -/
def decodeBig (bytes : List Byte) : Nat := bytes.foldl (fun raw x => raw * 256 + x.toNat) 0

/-- The bytes of the length field as a number, the first the least significant (R170). -/
def decodeLittle (bytes : List Byte) : Nat :=
  match bytes with
  | [] => 0
  | x :: rest => x.toNat + 256 * decodeLittle rest

/-- `lfdecode()` (R170). -/
def lfDecode (f : Framer) : Nat :=
  let field := Memory.bytes f.fhdr f.cfg.lfOff.toNat f.cfg.lfLen.toNat
  if f.cfg.lfOrd = 0 then decodeBig field else decodeLittle field

/-- `resolve()`: the total length of the current packet, an unbounded integer (R164). In the fixed
mode the total is known without it and with no framing nothing is constructed, so those two lines
are reached in no run (log 10). -/
def framerResolve (f : Framer) : Int :=
  match f.cfg.mode with
  | .noFraming => f.cfg.pktSize.toNat
  | .fixed => f.cfg.pktSize.toNat
  | .ccsds => ((Memory.read f.fhdr 4).toNat * 256 + (Memory.read f.fhdr 5).toNat : Nat) + 7
  | .generic => lfDecode f + sext32 f.cfg.lfAdj

/-- The byte is consumed: kept in FHDR while the header lasts, emitted into FBUF past the stripped
bytes (R163). -/
def framerConsume (byte : Byte) (f : Framer) : Framer :=
  { f with
    fhdr := if f.fpos < f.cfg.e then Memory.write f.fhdr f.fpos byte else f.fhdr
    fbuf := if f.cfg.strip.toNat ≤ f.fpos then Memory.write f.fbuf f.flen byte else f.fbuf
    flen := if f.cfg.strip.toNat ≤ f.fpos then f.flen + 1 else f.flen
    fpos := f.fpos + 1 }

/-- The second part of FPUSH: when the header is complete its total is resolved and tested; an error
leaves the framer in FAULT (R163). -/
def framerHeader (f : Framer) : Except ErrCode Framer :=
  if f.fst = .header ∧ f.fpos = f.cfg.e then
    if framerResolve f < (max f.cfg.e f.cfg.strip.toNat : Nat) then .error .badlen
    else if (f.cfg.maxLen.toNat : Int) < framerResolve f then .error .toolong
    else .ok { f with ftot := (framerResolve f).toNat, fst := .body }
  else .ok f

/-- The last part of FPUSH: whether the packet is complete (R163). -/
def framerComplete (f : Framer) : Bool := decide (f.fst = .body) && decide (f.fpos = f.ftot)

/-- FPUSH (R163). -/
def execFpush (byte : Byte) (s : State) : Result :=
  if s.fr.fst = .header ∨ s.fr.fst = .body then
    match framerHeader (framerConsume byte s.fr) with
    | .error e => raise e { s with fr := { framerConsume byte s.fr with fst := .fault } }
    | .ok f =>
      if framerComplete f then respond 1 { s with fr := { f with fst := .ready } }
      else respond 0 { s with fr := f }
  else raise .fstate s

/-- FEOF (R165). -/
def execFeof (s : State) : Result :=
  if s.fr.fst = .header ∨ s.fr.fst = .body then
    if 0 < s.fr.fpos then raise .eof { s with fr := framerOff s.fr }
    else respond 0 { s with fr := framerOff s.fr }
  else raise .fstate s

/-- FTAKE (R166): the packet of FBUF becomes BUF, and the next packet starts. -/
def execFtake (s : State) : Result :=
  if s.fr.fst = .ready then
    respond (BitVec.ofNat 32 s.fr.flen)
      { s with buf := Memory.below s.fr.fbuf s.fr.flen, len := s.fr.flen, fr := framerRestart s.fr }
  else raise .fstate s

/-- FRST (R167). -/
def execFrst (s : State) : Result := respond 0 { s with fr := framerOff s.fr }

end Sys2Proof.Machine
end

