-- ==== Sys2Proof/Machine/Header.lean ====
section
/-! DEFINITION. The CCSDS header codec: the eleven get and eleven set commands (42_ccsds_header.md
R124 to R145). -/

namespace Sys2Proof.Machine

/-- `return f(MemRead(addr, 2))`. -/
def getHalf (addr : Nat) (f : Half → Word) (s : State) : Result :=
  finishRead ((memRead2 s addr).map f) s

/-- GVER (R124). -/
def execGver (s : State) : Result := getHalf 0 (fun w => (hdrVersion w).setWidth 32) s

/-- GTYPE (R125). -/
def execGtype (s : State) : Result := getHalf 0 (fun w => (hdrType w).setWidth 32) s

/-- GSHF (R126). -/
def execGshf (s : State) : Result := getHalf 0 (fun w => (hdrShf w).setWidth 32) s

/-- GAPID (R127). -/
def execGapid (s : State) : Result := getHalf 0 (fun w => (hdrApid w).setWidth 32) s

/-- GSEQF (R128). -/
def execGseqf (s : State) : Result := getHalf 2 (fun w => (hdrSeqFlags w).setWidth 32) s

/-- GSEQ (R129). -/
def execGseq (s : State) : Result := getHalf 2 (fun w => (hdrSeqCount w).setWidth 32) s

/-- GLENF (R130). -/
def execGlenf (s : State) : Result := getHalf 4 (fun w => w.setWidth 32) s

/-- GPLEN (R131): the length field plus 7, without wrap. -/
def execGplen (s : State) : Result := getHalf 4 (fun w => w.setWidth 32 + 7) s

/-- GCOARSE (R140). -/
def execGcoarse (s : State) : Result := finishRead (memRead4 s s.params.shCoarseOff) s

/-- GFINE (R141). -/
def execGfine (s : State) : Result :=
  finishRead ((memRead1 s s.params.shFineOff).map fun x => x.setWidth 32) s

/-- GCKI (R144): the stored bit, not the effective indicator. -/
def execGcki (s : State) : Result :=
  finishRead ((memRead1 s s.params.shCkiOff).map fun x =>
    (BitVec.ofBool (ckiBit s.params.shCkiBit x)).setWidth 32) s

/-- SVER (R132). -/
def execSver (ver : BitVec 3) (s : State) : Result :=
  finishWrite (memUpdate2 s 0 (setVersion ver)) s

/-- STYPE (R133). -/
def execStype (type : BitVec 1) (s : State) : Result :=
  finishWrite (memUpdate2 s 0 (setType type)) s

/-- SSHF (R134). -/
def execSshf (shf : BitVec 1) (s : State) : Result :=
  finishWrite (memUpdate2 s 0 (setShf shf)) s

/-- SAPID (R135). -/
def execSapid (apid : Apid) (s : State) : Result :=
  finishWrite (memUpdate2 s 0 (setApid apid)) s

/-- SSEQF (R136). -/
def execSseqf (seqf : BitVec 2) (s : State) : Result :=
  finishWrite (memUpdate2 s 2 (setSeqFlags seqf)) s

/-- SSEQ (R137). -/
def execSseq (seq : SeqCount) (s : State) : Result :=
  finishWrite (memUpdate2 s 2 (setSeqCount seq)) s

/-- SLENF (R138). -/
def execSlenf (lenf : Half) (s : State) : Result := finishWrite (memWrite2 s 4 lenf) s

/-- SHDR (R139): the first four bytes as packed by R86, the length field `LEN - 7`. -/
def execShdr (type shf : BitVec 1) (apid : Apid) (seqf : BitVec 2) (seq : SeqCount) (s : State) :
    Result :=
  if s.len < 6 then raise .bounds s
  else if s.len < 7 then raise .invarg s
  else respond (BitVec.ofNat 32 (s.len - 7))
    { s with
      buf := Memory.write2 (Memory.write4 s.buf 0 (shdrHeader type shf apid seqf seq)) 4
        (BitVec.ofNat 16 (s.len - 7)) }

/-- SCOARSE (R142). -/
def execScoarse (coarse : Word) (s : State) : Result :=
  finishWrite (memWrite4 s s.params.shCoarseOff coarse) s

/-- SFINE (R143). -/
def execSfine (fine : Byte) (s : State) : Result :=
  finishWrite (memWrite1 s s.params.shFineOff fine) s

/-- SCKI (R145). -/
def execScki (cki : BitVec 1) (s : State) : Result :=
  finishWrite (memUpdate1 s s.params.shCkiOff (setCkiBit s.params.shCkiBit cki)) s

end Sys2Proof.Machine
end

