-- ==== Sys2Proof/Machine/Receive.lean ====
section
/-! DEFINITION. The receive pipeline and the sequence tracker on reception: RXPROC, SEQCHK, SEQGET
(44_rx_pipeline.md R200 to R211). -/

namespace Sys2Proof.Machine

/-- The reads of RXPROC at fixed offsets: header words 0 and 1, coarse and fine time (R201). Under
`LEN >= RXMIN >= RXMIN_FLOOR` none of them is out of bounds. -/
def rxReads (s : State) : Except ErrCode (Half × Half × Word × Byte) := do
  let w0 ← memRead2 s 0
  let w1 ← memRead2 s 2
  let coarse ← memRead4 s s.params.shCoarseOff
  let fine ← memRead1 s s.params.shFineOff
  return (w0, w1, coarse, fine)

/-- Step 2 of RXPROC: `(corrupt, ckfail)` (R201, R205). -/
def rxVerify (s : State) (cki : Bool) : Bool × Bool :=
  if cki then
    match cksumOf s.csr.ckSel s.csr.crcIv (Memory.bytes s.buf 0 (s.len - 2)) with
    | none => (true, true)
    | some c => (c != Memory.read2 s.buf (s.len - 2), false)
  else (false, false)

/-- A packet shorter than RXMIN is dropped: EVENT.TOOSHORT and RXFLAGS only (R203). -/
def rxDrop (s : State) : State :=
  { s with event := setEvent true evTooShort s.event, rx := { s.rx with flags := rxFlagsDrop } }

/-- The flags of RXPROC for a packet that is not dropped (R201). -/
def rxFlagsOf (s : State) (w0 w1 : Half) : BitVec 6 :=
  packRxFlags (rxVerify s (ckiEff s)).1 (seqGap s.rxSeq (hdrApid w0) (hdrSeqCount w1))
    (hdrShf w0 == 1) (ckiEff s) (rxVerify s (ckiEff s)).2

/-- The state RXPROC leaves for a packet that is not dropped (R201). -/
def rxFinish (s : State) (w0 w1 : Half) (coarse : Word) (fine : Byte) : State :=
  { s with
    event :=
      setEvent (rxVerify s (ckiEff s)).2 evCkFail
        (setEvent (seqGap s.rxSeq (hdrApid w0) (hdrSeqCount w1)) evSeqGap
          (setEvent (rxVerify s (ckiEff s)).1 evCorrupt s.event))
    rxSeq := seqSet s.rxSeq (hdrApid w0) (hdrSeqCount w1)
    rx := { flags := rxFlagsOf s w0 w1, seqId := packSeqId (hdrApid w0) (hdrSeqCount w1)
            coarse := coarse, fine := fine } }

/-- RXPROC (R201). -/
def execRxproc (s : State) : Result :=
  if s.len < s.csr.rxMin.toNat then respond (rxFlagsDrop.setWidth 32) (rxDrop s)
  else
    match rxReads s with
    | .error e => raise e s
    | .ok (w0, w1, coarse, fine) =>
      respond ((rxFlagsOf s w0 w1).setWidth 32) (rxFinish s w0 w1 coarse fine)

/-- SEQCHK (R208, R209). -/
def execSeqchk (apid : Apid) (seq : SeqCount) (s : State) : Result :=
  respond ((BitVec.ofBool (seqGap s.rxSeq apid seq)).setWidth 32)
    { s with
      rxSeq := seqSet s.rxSeq apid seq
      event := setEvent (seqGap s.rxSeq apid seq) evSeqGap s.event }

/-- SEQGET (R210). -/
def execSeqget (apid : Apid) (s : State) : Result :=
  respond (packSeqEntry (seqGet s.rxSeq apid)) s

end Sys2Proof.Machine
end

