-- ==== Sys2Proof/Machine/Csr.lean ====
section
/-! DEFINITION. Reading and writing the control registers (10_state.md R30, R31, R46, R47). -/

namespace Sys2Proof.Machine

/-- A register zero-extended to 32 bits (R30, R31 (6)). -/
def csrRead (s : State) (r : CsrName) : Word :=
  match r with
  | .ckSel => BitVec.ofNat 32 (ckselCode s.csr.ckSel)
  | .crcIv => s.csr.crcIv.setWidth 32
  | .rxMin => s.csr.rxMin.setWidth 32
  | .txMin => s.csr.txMin.setWidth 32
  | .txCtl => s.csr.txCtl.setWidth 32
  | .fMode => BitVec.ofNat 32 (fmodeCode s.csr.fMode)
  | .pktSize => s.csr.pktSize.setWidth 32
  | .maxLen => s.csr.maxLen.setWidth 32
  | .lfOff => s.csr.lfOff.setWidth 32
  | .lfLen => s.csr.lfLen.setWidth 32
  | .lfOrd => s.csr.lfOrd.setWidth 32
  | .lfAdj => s.csr.lfAdj
  | .strip => s.csr.strip
  | .fcfgSet => s.csr.fcfgSet.setWidth 32
  | .fState => BitVec.ofNat 32 (fstateCode s.fr.fst)
  | .fPos => BitVec.ofNat 32 s.fr.fpos
  | .fTot => BitVec.ofNat 32 s.fr.ftot
  | .fLen => BitVec.ofNat 32 s.fr.flen
  | .event => s.event.setWidth 32
  | .rxFlags => s.rx.flags.setWidth 32
  | .rxSeqId => s.rx.seqId
  | .rxCoarse => s.rx.coarse
  | .rxFine => s.rx.fine.setWidth 32
  | .txFlags => s.tx.flags.setWidth 32
  | .txSeq => s.tx.seq.setWidth 32
  | .txCk => s.tx.ck.setWidth 32
  | .txApid => s.tx.apid.setWidth 32

/-- The column "legal values on write" of R30. A read-only register has none. -/
def csrLegal (p : Params) (r : CsrName) (v : Word) : Bool :=
  match r with
  | .ckSel => decide (v.toNat ≤ 2)
  | .crcIv => decide (v.toNat ≤ 0xFFFF)
  | .rxMin => decide (p.rxminFloor ≤ v.toNat) && decide (v.toNat ≤ p.bufsz)
  | .txMin => decide (v.toNat ≤ p.bufsz)
  | .txCtl => decide (v.toNat ≤ 1)
  | .fMode => decide (v.toNat ≤ 3)
  | .pktSize => decide (v.toNat ≤ p.bufsz)
  | .maxLen => decide (v.toNat ≤ p.bufsz)
  | .lfOff => decide (v.toNat ≤ p.bufsz)
  | .lfLen => decide (1 ≤ v.toNat) && decide (v.toNat ≤ 4)
  | .lfOrd => decide (v.toNat ≤ 1)
  | .lfAdj => true
  | .strip => true
  | .event => true
  | .fcfgSet | .fState | .fPos | .fTot | .fLen => false
  | .rxFlags | .rxSeqId | .rxCoarse | .rxFine => false
  | .txFlags | .txSeq | .txCk | .txApid => false

/-- `csr[csrno] <- v` for a legal value of an RW register, with the bit of `FCFGSET` that the write
of a mandatory framing parameter sets (R31 (4), R46, R243). -/
def csrStore (c : Csr) (r : CsrName) (v : Word) : Csr :=
  match r with
  | .ckSel => { c with ckSel := ckselOfCode v }
  | .crcIv => { c with crcIv := v.setWidth 16 }
  | .rxMin => { c with rxMin := v.setWidth 17 }
  | .txMin => { c with txMin := v.setWidth 17 }
  | .txCtl => { c with txCtl := v.setWidth 1 }
  | .fMode => { c with fMode := fmodeOfCode v }
  | .pktSize => { c with pktSize := v.setWidth 17 }
  | .maxLen => { c with maxLen := v.setWidth 17 }
  | .lfOff => { c with lfOff := v.setWidth 17, fcfgSet := c.fcfgSet ||| 0b0001 }
  | .lfLen => { c with lfLen := v.setWidth 3, fcfgSet := c.fcfgSet ||| 0b0010 }
  | .lfOrd => { c with lfOrd := v.setWidth 1 }
  | .lfAdj => { c with lfAdj := v, fcfgSet := c.fcfgSet ||| 0b0100 }
  | .strip => { c with strip := v, fcfgSet := c.fcfgSet ||| 0b1000 }
  | .event => c
  | .fcfgSet | .fState | .fPos | .fTot | .fLen => c
  | .rxFlags | .rxSeqId | .rxCoarse | .rxFine => c
  | .txFlags | .txSeq | .txCk | .txApid => c

/-- A write of `v` to the register `r`, in the order of the tests of R31 and R243. -/
def csrWrite (s : State) (r : CsrName) (v : Word) : Except ErrCode State :=
  if csrReadOnly r then .error .illegal
  else if r = .event then .ok { s with event := clearEvent v s.event }
  else if csrLegal s.params r v then .ok { s with csr := csrStore s.csr r v }
  else .error .config

end Sys2Proof.Machine
end

