-- ==== Sys2Proof/Machine/System.lean ====
section
/-! DEFINITION. The system commands NOP, SRST, CSRR, CSRW (46_buffer_system.md R240 to R243). -/

namespace Sys2Proof.Machine

/-- NOP (R240). -/
def execNop (s : State) : Result := respond 0 s

/-- SRST (R241): the reset state, then the response. -/
def execSrst (s : State) : Result := respond 0 (resetState s)

/-- CSRR (R242). -/
def execCsrr (csrno : BitVec 24) (s : State) : Result :=
  match csrOfNum csrno with
  | some r => respond (csrRead s r) s
  | none => raise .illegal s

/-- CSRW (R243). -/
def execCsrw (csrno : BitVec 24) (v32 : Word) (s : State) : Result :=
  match csrOfNum csrno with
  | some r => finishWrite (csrWrite s r v32) s
  | none => raise .illegal s

end Sys2Proof.Machine
end

