-- ==== Sys2Proof/Machine/Transmit.lean ====
section
/-! DEFINITION. The transmit pipeline and the sequence tracker on transmission: TXPROC, SEQNEXT,
TXSEQGET (45_tx_pipeline.md R220 to R229). The steps (a) to (g) are those of R221. -/

namespace Sys2Proof.Machine

/-- `L1`: the length with the trailing checksum slot (R221 (a)). -/
def txLen1 (s : State) : Nat := s.len + (if ckiEff s then 2 else 0)

/-- `L2`: the length raised to the configured minimum (R221 (b)). -/
def txLen2 (s : State) : Nat := max (txLen1 s) s.csr.txMin.toNat

/-- `L3`: the length made even if EVENPAD asks for it, the final length (R221 (c)). -/
def txLen3 (s : State) : Nat :=
  txLen2 s + (if s.csr.txCtl = 1 ∧ txLen2 s % 2 = 1 then 1 else 0)

/-- The secondary-header flag of the packet as loaded. -/
def txShf (s : State) : Bool := hdrShf (Memory.read2 s.buf 0) == 1

/-- The APID of the packet as loaded. -/
def txApid (s : State) : Apid := hdrApid (Memory.read2 s.buf 0)

/-- The count `seqnext(apid)` assigns to this command (R221 (e), R223). -/
def txSeqCount (s : State) : SeqCount := seqNextCount s.txSeq s.params.txseqFirst (txApid s)

/-- Whether the generation time is written (R221 (f), R224). -/
def txTimeWritten (s : State) : Bool := txShf s && decide (s.params.shEnd ≤ txLen3 s)

/-- Whether the generation time should be written and does not fit (R224). -/
def txTimeFails (s : State) : Bool := txShf s && !decide (s.params.shEnd ≤ txLen3 s)

/-- The packet after (a) to (d): every added byte zero, the length field `L3 - 7`. -/
def txSized (s : State) : Memory :=
  Memory.write2 (Memory.below s.buf s.len) 4 (BitVec.ofNat 16 (txLen3 s - 7))

/-- The packet after (e): the assigned count in bits 13:0 of bytes 2 and 3, the flags kept. -/
def txCounted (s : State) : Memory :=
  Memory.write2 (txSized s) 2 (setSeqCount (txSeqCount s) (Memory.read2 (txSized s) 2))

/-- The packet after (f). -/
def txTimed (fine : Byte) (coarse : Word) (s : State) : Memory :=
  if txTimeWritten s then
    Memory.write (Memory.write4 (txCounted s) s.params.shCoarseOff coarse) s.params.shFineOff fine
  else txCounted s

/-- The checksum of (g) over all bytes before the last two of the final packet; none is FAIL. -/
def txChecksum (fine : Byte) (coarse : Word) (s : State) : Option Half :=
  cksumOf s.csr.ckSel s.csr.crcIv (Memory.bytes (txTimed fine coarse s) 0 (txLen3 s - 2))

/-- Whether the checksum is written (R221 (g)). -/
def txCkWritten (fine : Byte) (coarse : Word) (s : State) : Bool :=
  ckiEff s && (txChecksum fine coarse s).isSome

/-- Whether the checksum was asked for and could not be computed (R225). -/
def txCkFails (fine : Byte) (coarse : Word) (s : State) : Bool :=
  ckiEff s && (txChecksum fine coarse s).isNone

/-- `ck`: the checksum written, 0 where none is (R221, R27). -/
def txCkValue (fine : Byte) (coarse : Word) (s : State) : Half :=
  if txCkWritten fine coarse s then (txChecksum fine coarse s).getD 0 else 0

/-- The final packet, after (g). -/
def txPacket (fine : Byte) (coarse : Word) (s : State) : Memory :=
  if txCkWritten fine coarse s then
    Memory.write2 (txTimed fine coarse s) (txLen3 s - 2) (txCkValue fine coarse s)
  else txTimed fine coarse s

/-- `TXFLAGS` (R27, R221). -/
def txFlagsOf (fine : Byte) (coarse : Word) (s : State) : Byte :=
  packTxFlags (ckiEff s) (txCkWritten fine coarse s) (txCkFails fine coarse s) (txShf s)
    (txTimeWritten s) (txTimeFails s) (decide (txLen1 s < txLen2 s)) (decide (txLen2 s < txLen3 s))

/-- The state TXPROC leaves when it does not raise (R221). -/
def txFinish (fine : Byte) (coarse : Word) (s : State) : State :=
  { s with
    buf := txPacket fine coarse s
    len := txLen3 s
    txSeq := seqSet s.txSeq (txApid s) (txSeqCount s)
    event :=
      setEvent (txTimeFails s) evTimeFail (setEvent (txCkFails fine coarse s) evCkFail s.event)
    tx := { flags := txFlagsOf fine coarse s, seq := txSeqCount s
            ck := txCkValue fine coarse s, apid := txApid s } }

/-- TXPROC (R221). Every test comes before the first write. -/
def execTxproc (fine : Byte) (coarse : Word) (s : State) : Result :=
  if s.len < 6 then raise .bounds s
  else if s.params.bufsz < txLen3 s then raise .bounds s
  else if txLen3 s < 7 then raise .invarg s
  else respond (packTxReturn (txSeqCount s) (txFlagsOf fine coarse s)) (txFinish fine coarse s)

/-- SEQNEXT (R223, R228). -/
def execSeqnext (apid : Apid) (s : State) : Result :=
  respond ((seqNextCount s.txSeq s.params.txseqFirst apid).setWidth 32)
    { s with txSeq := seqSet s.txSeq apid (seqNextCount s.txSeq s.params.txseqFirst apid) }

/-- TXSEQGET (R229). -/
def execTxseqget (apid : Apid) (s : State) : Result :=
  respond (packSeqEntry (seqGet s.txSeq apid)) s

end Sys2Proof.Machine
end

