-- ==== Sys2Proof/Machine/Dispatch.lean ====
section
/-! DEFINITION. One arm per command of 30_encoding.md R83, each a call of its meaning. -/

namespace Sys2Proof.Machine

def exec (i : Instr) (s : State) : Host.Outcome State Fault Refusal :=
  match i with
  | .nop => Sys2Proof.Machine.execNop s
  | .srst => Sys2Proof.Machine.execSrst s
  | .csrr csrno => Sys2Proof.Machine.execCsrr csrno s
  | .csrw csrno v32 => Sys2Proof.Machine.execCsrw csrno v32 s
  | .setlen n => Sys2Proof.Machine.execSetlen n s
  | .rdlen => Sys2Proof.Machine.execRdlen s
  | .rdb off => Sys2Proof.Machine.execRdb off s
  | .wrb off byte => Sys2Proof.Machine.execWrb off byte s
  | .appb byte => Sys2Proof.Machine.execAppb byte s
  | .sum16 off n => Sys2Proof.Machine.execSum16 off n s
  | .crc16 off n => Sys2Proof.Machine.execCrc16 off n s
  | .flet16 off n => Sys2Proof.Machine.execFlet16 off n s
  | .cksum off n => Sys2Proof.Machine.execCksum off n s
  | .gver => Sys2Proof.Machine.execGver s
  | .gtype => Sys2Proof.Machine.execGtype s
  | .gshf => Sys2Proof.Machine.execGshf s
  | .gapid => Sys2Proof.Machine.execGapid s
  | .gseqf => Sys2Proof.Machine.execGseqf s
  | .gseq => Sys2Proof.Machine.execGseq s
  | .glenf => Sys2Proof.Machine.execGlenf s
  | .gplen => Sys2Proof.Machine.execGplen s
  | .gcoarse => Sys2Proof.Machine.execGcoarse s
  | .gfine => Sys2Proof.Machine.execGfine s
  | .gcki => Sys2Proof.Machine.execGcki s
  | .sver ver => Sys2Proof.Machine.execSver ver s
  | .stype type => Sys2Proof.Machine.execStype type s
  | .sshf shf => Sys2Proof.Machine.execSshf shf s
  | .sapid apid => Sys2Proof.Machine.execSapid apid s
  | .sseqf seqf => Sys2Proof.Machine.execSseqf seqf s
  | .sseq seq => Sys2Proof.Machine.execSseq seq s
  | .slenf lenf => Sys2Proof.Machine.execSlenf lenf s
  | .shdr type shf apid seqf seq => Sys2Proof.Machine.execShdr type shf apid seqf seq s
  | .scoarse coarse => Sys2Proof.Machine.execScoarse coarse s
  | .sfine fine => Sys2Proof.Machine.execSfine fine s
  | .scki cki => Sys2Proof.Machine.execScki cki s
  | .finit => Sys2Proof.Machine.execFinit s
  | .fpush byte => Sys2Proof.Machine.execFpush byte s
  | .feof => Sys2Proof.Machine.execFeof s
  | .ftake => Sys2Proof.Machine.execFtake s
  | .frst => Sys2Proof.Machine.execFrst s
  | .rxproc => Sys2Proof.Machine.execRxproc s
  | .seqchk apid seq => Sys2Proof.Machine.execSeqchk apid seq s
  | .seqget apid => Sys2Proof.Machine.execSeqget apid s
  | .txproc fine coarse => Sys2Proof.Machine.execTxproc fine coarse s
  | .seqnext apid => Sys2Proof.Machine.execSeqnext apid s
  | .txseqget apid => Sys2Proof.Machine.execTxseqget apid s

end Sys2Proof.Machine
end

