-- ==== Sys2Proof/Machine/Port.lean ====
section
/-! DEFINITION. The command and response port (10_state.md R40): what the host presents next, and what
the block does with a sample that carries no legal command. -/

namespace Sys2Proof.Machine

/-- What the next sample of the port asks for. -/
inductive PortRequest where
  /-- No sample is left, or `cmd_valid` = 0: nothing happens (20_memory.md R66). -/
  | idle
  /-- `rst` = 1 (70_reset_and_hazards.md R290); it wins over a command presented with it. -/
  | reset
  /-- `cmd_valid` = 1: the block takes the word. -/
  | command (w : PortWord)
deriving DecidableEq, Repr

/-- The request at the head of the port. -/
def portRequest (s : State) : PortRequest :=
  match s.port with
  | [] => .idle
  | p :: _ => if p.rst then .reset else if p.cmdValid then .command p.cmd else .idle

/-- The state with the head sample consumed. -/
def portTaken (s : State) : State := { s with port := s.port.tail }

/-- A sample without a command: no response is produced, and nothing else changes. -/
def portIdle (s : State) : Result := .next { s with rsp := none }

/-- The `rst` input: every piece of state takes its reset value, and no response is produced
(R290). -/
def portReset (s : State) : Result := .next (resetState s)

/-- An illegal word is not executed: E_ILLEGAL (30_encoding.md R84). -/
def portIllegal (s : State) : Result := raise .illegal s

/-- A sample that presents the word `w`. -/
def commandSample (w : PortWord) : PortSample := { rst := false, cmdValid := true, cmd := w }

/-- `cmd_ready`: between two steps the block has answered every command it took, so it is ready
(R40, R299). -/
def cmdReady (_ : State) : Bool := true

/-- `rsp_valid`: the last step produced a response (R40). -/
def rspValid (s : State) : Bool := s.rsp.isSome

end Sys2Proof.Machine
end

