-- ==== Sys2Proof/Machine/Step.lean ====
section
/-! DEFINITION. One step: the next sample of the command port is taken and acted on (10_state.md R40,
20_memory.md R66). -/

namespace Sys2Proof.Machine

/-- One step of the block: the request at the head of the port is carried out to its end. -/
def step (s : State) : Host.Outcome State Fault Refusal :=
  match portRequest s with
  | .idle => portIdle (portTaken s)
  | .reset => portReset (portTaken s)
  | .command w =>
    match decode w with
    | .ok i => exec i (portTaken s)
    | .error _ => portIllegal (portTaken s)

/-- The state in which the host presents the given word next, before whatever it presented already.
The block stores no program (R21): this stands for the host's sending the command. -/
def State.withFetchWord (s : State) (nbits w : Nat) : State :=
  { s with port := commandSample (BitVec.ofNat 64 (w % 2 ^ nbits)) :: s.port }

end Sys2Proof.Machine
end

