-- ==== Sys2Proof/Machine/Pseudo.lean ====
section
/-! DEFINITION. The pseudo-commands of 30_encoding.md R88, each a fixed sequence of commands, and the
running of a sequence of commands one after another (20_memory.md R66). -/

namespace Sys2Proof.Machine

/-- `LDPKT b0 b1 ...`: loads a packet into BUF (R88). -/
def ldpkt (bytes : List Byte) : List Instr := Instr.setlen 0 :: bytes.map Instr.appb

/-- `FFEED b0 b1 ...`: feeds stream bytes to the framer (R88). -/
def ffeed (bytes : List Byte) : List Instr := bytes.map Instr.fpush

/-- `CLREV`: clears every event flag (R88). -/
def clrev : List Instr := [Instr.csrw 0x18 0xFF]

/-- The first command of `SLENA` (R88). -/
def slenaFirst : Instr := .rdlen

/-- The second command of `SLENA`, once the first has answered `val`; the host must not issue it for
a value below 7 or above 65542 (R88). -/
def slenaSecond (val : Word) : Option Instr :=
  if 7 ≤ val.toNat ∧ val.toNat ≤ 65542 then some (.slenf (BitVec.ofNat 16 (val.toNat - 7))) else none

/-- The commands executed one after another, each from the state the one before left; a command that
answers an error does not stop the sequence (R66, R266). -/
def runCommands (is : List Instr) (s : State) : Result :=
  match is with
  | [] => .next s
  | i :: rest =>
    match exec i s with
    | .next t => runCommands rest t
    | .fault f => .fault f
    | .refused r => .refused r

end Sys2Proof.Machine
end

