-- ==== Sys2Proof/Safety.lean ====
section
/-! DEFINITION. The terms claims are stated in: what a command's answer looks like, the invariant of
the block's states, and plain reference forms of the checksums and of the header's layout. -/

namespace Sys2Proof.Machine

/-- `s` with the response `err` = OK and value `v` on the port (30_encoding.md R82). -/
def answered (v : Word) (s : State) : State := { s with rsp := some (v.setWidth 64) }

/-- `s` with the response of the error `code`, value 0, and EVENT.ERR set (R82, R262). -/
def failed (code : Nat) (s : State) : State :=
  { s with rsp := some (BitVec.ofNat 64 (code * 2 ^ 32)), event := s.event ||| 0x80 }

/-- The `err` field of a response word, bits 39:32 (R82). -/
def errField (w : PortWord) : Nat := w.toNat / 2 ^ 32 % 256

/-- The `val` field of a response word, bits 31:0 (R82). -/
def valField (w : PortWord) : Nat := w.toNat % 2 ^ 32

/-- The byte at offset `a` of the packet buffer, as a number. -/
def byteAt (s : State) (a : Nat) : Nat := (Memory.read s.buf a).toNat

/-- `s'` is `s` but for the bytes of BUF and the response, which answers OK with the value `v`. -/
abbrev OnlyBufAndAnswer (v : Word) (s s' : State) : Prop := { s' with buf := s.buf } = answered v s

/-- The packet buffer: canonical, no byte listed at or above LEN, LEN within BUFSZ (10_state.md
R22). -/
def BufInv (s : State) : Prop :=
  Memory.wf s.buf = true ∧ (∀ c ∈ s.buf, c.1 < s.len) ∧ s.len ≤ s.params.bufsz

/-- A sequence table: canonical, indexed by APIDs 0 to 2047 (R24). -/
def TableInv (t : SeqTable) : Prop := sparseSorted t = true ∧ ∀ c ∈ t, c.1 < 2048

/-- The control registers hold values that could have been written to them, or their reset values
(R30, R31, R46). -/
def CsrInv (p : Params) (c : Csr) : Prop :=
  (p.rxminFloor ≤ c.rxMin.toNat ∧ c.rxMin.toNat ≤ p.bufsz) ∧ c.txMin.toNat ≤ p.bufsz ∧
  c.pktSize.toNat ≤ p.bufsz ∧ c.maxLen.toNat ≤ p.bufsz ∧ c.lfOff.toNat ≤ p.bufsz ∧
  c.lfLen.toNat ≤ 4 ∧ (c.fcfgSet.getLsbD 1 = true → 1 ≤ c.lfLen.toNat)

/-- A framing configuration that `FINIT` has accepted (43_framer.md R162). -/
def FrameCfgInv (p : Params) (f : FrameCfg) : Prop :=
  match f.mode with
  | .noFraming => False
  | .fixed => f.e = 0 ∧ f.strip = 0 ∧ 1 ≤ f.pktSize.toNat ∧ f.pktSize.toNat ≤ p.bufsz
  | .ccsds => f.e = 6 ∧ f.strip = 0 ∧ 7 ≤ f.maxLen.toNat ∧ f.maxLen.toNat ≤ p.bufsz
  | .generic =>
    f.e = f.lfOff.toNat + f.lfLen.toNat ∧ 1 ≤ f.lfLen.toNat ∧ f.lfLen.toNat ≤ 4 ∧ f.e ≤ p.bufsz ∧
      f.maxLen.toNat ≤ p.bufsz

/-- The counters of the framer in each of its states (R23, R161, R163). -/
def FramerCounters (p : Params) (f : Framer) : Prop :=
  match f.fst with
  | .off => f.fpos = 0 ∧ f.ftot = 0 ∧ f.flen = 0
  | .header =>
    FrameCfgInv p f.cfg ∧ f.cfg.mode ≠ .fixed ∧ f.fpos < f.cfg.e ∧ f.ftot = 0 ∧
      f.flen = f.fpos - f.cfg.strip.toNat
  | .body =>
    FrameCfgInv p f.cfg ∧ f.fpos < f.ftot ∧ f.ftot ≤ p.bufsz ∧ f.cfg.e ≤ f.ftot ∧
      f.cfg.strip.toNat ≤ f.ftot ∧ f.flen = f.fpos - f.cfg.strip.toNat
  | .ready =>
    FrameCfgInv p f.cfg ∧ f.fpos = f.ftot ∧ f.ftot ≤ p.bufsz ∧ f.cfg.strip.toNat ≤ f.ftot ∧
      f.flen = f.ftot - f.cfg.strip.toNat
  | .fault =>
    FrameCfgInv p f.cfg ∧ f.fpos = f.cfg.e ∧ f.ftot = 0 ∧ f.flen = f.fpos - f.cfg.strip.toNat

/-- The framer's buffers stay within BUFSZ and its counters agree with its state. -/
def FramerInv (p : Params) (f : Framer) : Prop :=
  (Memory.wf f.fbuf = true ∧ ∀ c ∈ f.fbuf, c.1 < p.bufsz) ∧
  (Memory.wf f.fhdr = true ∧ ∀ c ∈ f.fhdr, c.1 < p.bufsz) ∧ FramerCounters p f

/-- The invariant of the block: what holds after reset and is kept by every step. -/
def StateInv (s : State) : Prop :=
  s.params.Legal ∧ BufInv s ∧ TableInv s.rxSeq ∧ TableInv s.txSeq ∧ CsrInv s.params s.csr ∧
    FramerInv s.params s.fr ∧ s.event &&& 0x60 = 0

/-- The state R52 lists, reached from `s`: the parameters and the samples still to be presented are
those of `s`. -/
def ResetValues (s t : State) : Prop :=
  t.params = s.params ∧ t.port = s.port ∧ t.len = 0 ∧
  t.fr.fst = .off ∧ t.fr.fpos = 0 ∧ t.fr.ftot = 0 ∧ t.fr.flen = 0 ∧
  t.fr.cfg = ⟨.noFraming, 0, 0, 0, 0, 0, 0, 0, 0⟩ ∧
  (∀ a, seqGet t.rxSeq a = none) ∧ (∀ a, seqGet t.txSeq a = none) ∧ t.event = 0 ∧
  t.rx = ⟨0, 0, 0, 0⟩ ∧ t.tx = ⟨0, 0, 0, 0⟩ ∧
  t.csr = ⟨.crc, 0xFFFF, BitVec.ofNat 17 s.params.rxminReset, 0, 0, .noFraming, 0,
    BitVec.ofNat 17 s.params.bufsz, 0, 0, 0, 0, 0, 0⟩

/-- One shift of the CRC register as R103 writes it, on natural numbers. -/
def crcShiftNat (c : Nat) : Nat :=
  if c / 32768 % 2 = 1 then (c * 2 % 65536) ^^^ 0x1021 else c * 2 % 65536

/-- The loop of R103 over the `n` bytes of BUF from `off` on, on natural numbers. -/
def crcLoopNat (s : State) (off n c : Nat) : Nat :=
  match n with
  | 0 => c
  | n + 1 => crcLoopNat s (off + 1) n (crcShiftNat^[8] (c ^^^ (byteAt s off * 256)))

/-- The APID of the packet in BUF, from its first two bytes (42_ccsds_header.md R120). -/
def packetApid (s : State) : Nat := byteAt s 0 % 8 * 256 + byteAt s 1

/-- The sequence count of the packet in BUF, from bytes 2 and 3 (R120). -/
def packetSeq (s : State) : Nat := byteAt s 2 % 64 * 256 + byteAt s 3

/-- The secondary-header flag of the packet in BUF: bit 3 of byte 0 (R120). -/
abbrev PacketHasShf (s : State) : Prop := byteAt s 0 / 8 % 2 = 1

/-- The effective checksum indicator of the packet in BUF is 1 (R146). -/
abbrev PacketHasCki (s : State) : Prop :=
  PacketHasShf s ∧ s.params.shCkiOff < s.len ∧
    byteAt s s.params.shCkiOff / 2 ^ s.params.shCkiBit % 2 = 1

/-- The final length TXPROC computes for the packet in BUF, steps (a), (b), (c) of
45_tx_pipeline.md R221: `(L1, L2, L3)`. -/
def txLengths (s : State) : Nat × Nat × Nat :=
  let l1 := if PacketHasCki s then s.len + 2 else s.len
  let l2 := max l1 s.csr.txMin.toNat
  (l1, l2, if s.csr.txCtl = 1 ∧ l2 % 2 = 1 then l2 + 1 else l2)

/-- Byte `a` of the packet after steps (a) to (f) of R221, `n` the assigned count, `l3` the final
length and `tw` whether the time is written. -/
def txStampedByte (s : State) (fine coarse n l3 : Nat) (tw : Bool) (a : Nat) : Nat :=
  if tw = true ∧ a = s.params.shFineOff then fine
  else if tw = true ∧ s.params.shCoarseOff ≤ a ∧ a < s.params.shCoarseOff + 4 then
    coarse / 256 ^ (s.params.shCoarseOff + 3 - a) % 256
  else if a = 2 then byteAt s 2 / 64 * 64 + n / 256
  else if a = 3 then n % 256
  else if a = 4 then (l3 - 7) / 256
  else if a = 5 then (l3 - 7) % 256
  else if a < s.len then byteAt s a
  else 0

/-- A number read from bytes, the first the most significant (43_framer.md R170). -/
def bigEndian (bytes : List Byte) : Nat := Nat.ofDigits 256 (bytes.reverse.map (·.toNat))

/-- A number read from bytes, the first the least significant (R170). -/
def littleEndian (bytes : List Byte) : Nat := Nat.ofDigits 256 (bytes.map (·.toNat))

/-- The framer command sequence that constructs a framer, feeds it `bytes` and takes the packet. -/
def frameAndTake (bytes : List Byte) : List Instr := Instr.finit :: (ffeed bytes ++ [Instr.ftake])

/-- Which framer states a command may lead to from which, where it changes them (R161). -/
def framerMoves (i : Instr) (before after : FState) : Prop :=
  match i with
  | .finit => after = .header ∨ after = .body ∨ after = .off
  | .fpush _ =>
    (before = .header ∧ (after = .body ∨ after = .ready ∨ after = .fault)) ∨
      (before = .body ∧ after = .ready)
  | .ftake => before = .ready ∧ (after = .header ∨ after = .body)
  | .feof => (before = .header ∨ before = .body) ∧ after = .off
  | .frst | .srst => after = .off
  | .nop | .csrr _ | .csrw _ _ | .setlen _ | .rdlen | .rdb _ | .wrb _ _ | .appb _ => False
  | .sum16 _ _ | .crc16 _ _ | .flet16 _ _ | .cksum _ _ => False
  | .gver | .gtype | .gshf | .gapid | .gseqf | .gseq | .glenf | .gplen => False
  | .gcoarse | .gfine | .gcki | .sver _ | .stype _ | .sshf _ | .sapid _ => False
  | .sseqf _ | .sseq _ | .slenf _ | .shdr _ _ _ _ _ | .scoarse _ | .sfine _ | .scki _ => False
  | .rxproc | .seqchk _ _ | .seqget _ | .txproc _ _ | .seqnext _ | .txseqget _ => False

/-- The error codes R261 lists for a command, besides `E_ILLEGAL` at decode. -/
def mayRaise (i : Instr) : List Nat :=
  match i with
  | .nop | .srst | .rdlen | .frst | .rxproc | .seqchk _ _ | .seqget _ | .seqnext _ | .txseqget _ => []
  | .csrr _ => [1]
  | .csrw _ _ => [1, 4]
  | .setlen _ | .appb _ | .rdb _ | .wrb _ _ => [2]
  | .sum16 _ _ => [3, 2]
  | .crc16 _ _ | .flet16 _ _ => [2]
  | .cksum _ _ => [3, 2]
  | .gver | .gtype | .gshf | .gapid | .gseqf | .gseq | .glenf | .gplen => [2]
  | .gcoarse | .gfine | .gcki => [2]
  | .sver _ | .stype _ | .sshf _ | .sapid _ | .sseqf _ | .sseq _ | .slenf _ => [2]
  | .scoarse _ | .sfine _ | .scki _ => [2]
  | .shdr _ _ _ _ _ => [2, 3]
  | .finit => [4]
  | .fpush _ => [8, 7, 6]
  | .feof => [8, 5]
  | .ftake => [8]
  | .txproc _ _ => [2, 3]

end Sys2Proof.Machine
end

