-- ==== Sys2Proof/Certificates/Slice0/Obligations.lean ====
section
/-! DEFINITION. The statements for the provers, each about the machine and no program. A response is
described by `answered` (OK and a value) and `failed` (an error code, EVENT.ERR set), a byte of BUF by
`Memory.read` or `byteAt`. -/

open Sys2Proof Sys2Proof.Machine

/-! ## Encoding, decoding, stepping -/

/-- Decoding the encoding of any command gives it back (30_encoding.md R80, R81, R83, R85, R86). -/
def Obligations.DecodeOfEncode : Prop := ∀ i : Instr, decode (encode i) = .ok i

/-- A legal word has one meaning: encoding what was decoded gives the word back (R81). -/
def Obligations.EncodeOfDecode : Prop :=
  ∀ (w : PortWord) (i : Instr), decode w = .ok i → encode i = w

/-- The decoder accepts exactly the words that match a row of the opcode table, and a word matches at
most one row (R81). -/
def Obligations.DecoderAcceptsExactlyTheTable : Prop :=
  ∀ w : PortWord,
    ((∃ i, decode w = .ok i) ↔ ∃ r ∈ opcodeRows, w &&& r.2 = r.1) ∧
    ∀ r ∈ opcodeRows, ∀ r' ∈ opcodeRows, w &&& r.2 = r.1 → w &&& r'.2 = r'.1 → r = r'

/-- Words written out in the spec decode to the commands they stand for (R87; programs P1 to P5). -/
def Obligations.SpecWordsDecode : Prop :=
  decode 0x1100000000000012 = .ok (.crc16 0 18) ∧
  decode 0x370000001923802A = .ok (.shdr 1 1 0x123 0b10 42) ∧
  decode 0x0300000E00000007 = .ok (.csrw 0x0E 7) ∧
  decode 0x0601000500000000 = .ok (.rdb 65541) ∧
  decode 0x07000010000000BE = .ok (.wrb 16 0xBE) ∧
  decode 0x4100000000000008 = .ok (.fpush 8) ∧
  decode 0x510007FF00003FFF = .ok (.seqchk 2047 16383) ∧
  decode 0x6000009A12345678 = .ok (.txproc 0x9A 0x12345678) ∧
  decode 0x3700000020000000 = .error (.mustBeZero 0x37) ∧
  decode 0x0900000000000000 = .error (.unknownOpcode 0x09)

/-- A sample that presents a legal word: the step is `exec` of the decoded command on the state with
that sample taken (10_state.md R40, 20_memory.md R66). That the host's samples are a list in the state,
one taken per step, is the model's choice (logs 2 and 3). -/
def Obligations.StepRunsTheDecodedCommand : Prop :=
  ∀ (s : State) (w : PortWord) (rest : List PortSample) (i : Instr),
    s.port = commandSample w :: rest → decode w = .ok i → step s = exec i { s with port := rest }

/-- An illegal word, an unassigned register number and a write to a read-only register answer
E_ILLEGAL and change nothing but EVENT.ERR (30_encoding.md R84). That taking the word consumes a sample
is the model's choice (log 2). -/
def Obligations.IllegalCommandsAnswerIllegal : Prop :=
  ∀ s : State,
    (∀ (w : PortWord) (rest : List PortSample),
      s.port = commandSample w :: rest → (∀ r ∈ opcodeRows, w &&& r.2 ≠ r.1) →
        step s = .next (failed 1 { s with port := rest })) ∧
    (∀ csrno : BitVec 24, csrOfNum csrno = none → exec (.csrr csrno) s = .next (failed 1 s)) ∧
    (∀ (csrno : BitVec 24) (v : Word), csrOfNum csrno = none →
      exec (.csrw csrno v) s = .next (failed 1 s)) ∧
    (∀ (csrno : BitVec 24) (r : CsrName) (v : Word), csrOfNum csrno = some r →
      csrReadOnly r = true → exec (.csrw csrno v) s = .next (failed 1 s))

/-- Without a command nothing happens: the sample is consumed and no response is produced (20_memory.md
R66; the model's own sampling, log 5). -/
def Obligations.NoCommandChangesNothing : Prop :=
  ∀ s : State,
    (s.port = [] → step s = .next { s with rsp := none }) ∧
    (∀ (p : PortSample) (rest : List PortSample),
      s.port = p :: rest → p.rst = false → p.cmdValid = false →
        step s = .next { s with port := rest, rsp := none })

/-- SRST and the `rst` input leave every piece of state at its reset value (46_buffer_system.md R241,
70_reset_and_hazards.md R290, 10_state.md R52). That the build parameters and the waiting samples stay,
and that no response is held after `rst`, is the model's choice (logs 4 and 13). -/
def Obligations.ResetAndSoftResetLeaveResetValues : Prop :=
  ∀ s : State,
    (∃ t, exec .srst s = .next t ∧ ResetValues s t ∧ t.rsp = some 0) ∧
    (∀ (p : PortSample) (rest : List PortSample), s.port = p :: rest → p.rst = true →
      ∃ t, step s = .next t ∧ ResetValues { s with port := rest } t ∧ t.rsp = none)

/-! ## System and buffer commands -/

/-- NOP answers 0 and changes nothing (R240). -/
def Obligations.NopAnswersZero : Prop := ∀ s : State, exec .nop s = .next (answered 0 s)

/-- CSRR returns each of the 27 registers zero-extended, by its number, and E_ILLEGAL for every other
number (R242, 10_state.md R30, R47). -/
def Obligations.CsrrReadsEachRegister : Prop :=
  ∀ s : State,
    exec (.csrr 0x00) s = .next (answered
      (match s.csr.ckSel with | .sum => 0 | .crc => 1 | .fletcher => 2) s) ∧
    exec (.csrr 0x01) s = .next (answered (s.csr.crcIv.setWidth 32) s) ∧
    exec (.csrr 0x02) s = .next (answered (s.csr.rxMin.setWidth 32) s) ∧
    exec (.csrr 0x03) s = .next (answered (s.csr.txMin.setWidth 32) s) ∧
    exec (.csrr 0x04) s = .next (answered (s.csr.txCtl.setWidth 32) s) ∧
    exec (.csrr 0x08) s = .next (answered
      (match s.csr.fMode with | .noFraming => 0 | .fixed => 1 | .ccsds => 2 | .generic => 3) s) ∧
    exec (.csrr 0x09) s = .next (answered (s.csr.pktSize.setWidth 32) s) ∧
    exec (.csrr 0x0A) s = .next (answered (s.csr.maxLen.setWidth 32) s) ∧
    exec (.csrr 0x0B) s = .next (answered (s.csr.lfOff.setWidth 32) s) ∧
    exec (.csrr 0x0C) s = .next (answered (s.csr.lfLen.setWidth 32) s) ∧
    exec (.csrr 0x0D) s = .next (answered (s.csr.lfOrd.setWidth 32) s) ∧
    exec (.csrr 0x0E) s = .next (answered s.csr.lfAdj s) ∧
    exec (.csrr 0x0F) s = .next (answered s.csr.strip s) ∧
    exec (.csrr 0x10) s = .next (answered (s.csr.fcfgSet.setWidth 32) s) ∧
    exec (.csrr 0x11) s = .next (answered
      (match s.fr.fst with | .off => 0 | .header => 1 | .body => 2 | .ready => 3 | .fault => 4) s) ∧
    exec (.csrr 0x12) s = .next (answered (BitVec.ofNat 32 s.fr.fpos) s) ∧
    exec (.csrr 0x13) s = .next (answered (BitVec.ofNat 32 s.fr.ftot) s) ∧
    exec (.csrr 0x14) s = .next (answered (BitVec.ofNat 32 s.fr.flen) s) ∧
    exec (.csrr 0x18) s = .next (answered (s.event.setWidth 32) s) ∧
    exec (.csrr 0x20) s = .next (answered (s.rx.flags.setWidth 32) s) ∧
    exec (.csrr 0x21) s = .next (answered s.rx.seqId s) ∧
    exec (.csrr 0x22) s = .next (answered s.rx.coarse s) ∧
    exec (.csrr 0x23) s = .next (answered (s.rx.fine.setWidth 32) s) ∧
    exec (.csrr 0x28) s = .next (answered (s.tx.flags.setWidth 32) s) ∧
    exec (.csrr 0x29) s = .next (answered (s.tx.seq.setWidth 32) s) ∧
    exec (.csrr 0x2A) s = .next (answered (s.tx.ck.setWidth 32) s) ∧
    exec (.csrr 0x2B) s = .next (answered (s.tx.apid.setWidth 32) s) ∧
    ∀ n : BitVec 24,
      n.toNat ∉ [0, 1, 2, 3, 4, 8, 9, 10, 11, 12, 13, 14, 15, 16, 17, 18, 19, 20, 24, 32, 33, 34, 35,
        40, 41, 42, 43] → exec (.csrr n) s = .next (failed 1 s)

/-- CSRW stores a legal value of each writable register, sets the FCFGSET bit of a mandatory framing
parameter, clears the written ones of EVENT, and refuses every other value with E_CONFIG (R243,
10_state.md R30). -/
def Obligations.CsrwStoresLegalValuesOnly : Prop :=
  ∀ (s : State) (v : Word),
    (v.toNat ≤ 2 → ∃ c, ckselCode c = v.toNat ∧
      exec (.csrw 0x00 v) s = .next (answered 0 { s with csr := { s.csr with ckSel := c } })) ∧
    (2 < v.toNat → exec (.csrw 0x00 v) s = .next (failed 4 s)) ∧
    (v.toNat ≤ 0xFFFF → exec (.csrw 0x01 v) s =
      .next (answered 0 { s with csr := { s.csr with crcIv := v.setWidth 16 } })) ∧
    (0xFFFF < v.toNat → exec (.csrw 0x01 v) s = .next (failed 4 s)) ∧
    (s.params.rxminFloor ≤ v.toNat → v.toNat ≤ s.params.bufsz → exec (.csrw 0x02 v) s =
      .next (answered 0 { s with csr := { s.csr with rxMin := v.setWidth 17 } })) ∧
    (v.toNat < s.params.rxminFloor ∨ s.params.bufsz < v.toNat →
      exec (.csrw 0x02 v) s = .next (failed 4 s)) ∧
    (v.toNat ≤ s.params.bufsz → exec (.csrw 0x03 v) s =
      .next (answered 0 { s with csr := { s.csr with txMin := v.setWidth 17 } })) ∧
    (v.toNat ≤ 1 → exec (.csrw 0x04 v) s =
      .next (answered 0 { s with csr := { s.csr with txCtl := v.setWidth 1 } })) ∧
    (1 < v.toNat → exec (.csrw 0x04 v) s = .next (failed 4 s)) ∧
    (v.toNat ≤ 3 → ∃ m, fmodeCode m = v.toNat ∧
      exec (.csrw 0x08 v) s = .next (answered 0 { s with csr := { s.csr with fMode := m } })) ∧
    (3 < v.toNat → exec (.csrw 0x08 v) s = .next (failed 4 s)) ∧
    (v.toNat ≤ s.params.bufsz → exec (.csrw 0x09 v) s =
      .next (answered 0 { s with csr := { s.csr with pktSize := v.setWidth 17 } })) ∧
    (v.toNat ≤ s.params.bufsz → exec (.csrw 0x0A v) s =
      .next (answered 0 { s with csr := { s.csr with maxLen := v.setWidth 17 } })) ∧
    (v.toNat ≤ s.params.bufsz → exec (.csrw 0x0B v) s = .next (answered 0 { s with
      csr := { s.csr with lfOff := v.setWidth 17, fcfgSet := s.csr.fcfgSet ||| 1 } })) ∧
    (s.params.bufsz < v.toNat → ∀ n : BitVec 24, n ∈ [0x03#24, 0x09#24, 0x0A#24, 0x0B#24] →
      exec (.csrw n v) s = .next (failed 4 s)) ∧
    (1 ≤ v.toNat → v.toNat ≤ 4 → exec (.csrw 0x0C v) s = .next (answered 0 { s with
      csr := { s.csr with lfLen := v.setWidth 3, fcfgSet := s.csr.fcfgSet ||| 2 } })) ∧
    (v.toNat = 0 ∨ 4 < v.toNat → exec (.csrw 0x0C v) s = .next (failed 4 s)) ∧
    (v.toNat ≤ 1 → exec (.csrw 0x0D v) s =
      .next (answered 0 { s with csr := { s.csr with lfOrd := v.setWidth 1 } })) ∧
    (1 < v.toNat → exec (.csrw 0x0D v) s = .next (failed 4 s)) ∧
    exec (.csrw 0x0E v) s = .next (answered 0 { s with
      csr := { s.csr with lfAdj := v, fcfgSet := s.csr.fcfgSet ||| 4 } }) ∧
    exec (.csrw 0x0F v) s = .next (answered 0 { s with
      csr := { s.csr with strip := v, fcfgSet := s.csr.fcfgSet ||| 8 } }) ∧
    exec (.csrw 0x18 v) s = .next (answered 0 { s with event := s.event &&& ~~~(v.setWidth 8) }) ∧
    ∀ n : BitVec 24,
      n.toNat ∉ [0, 1, 2, 3, 4, 8, 9, 10, 11, 12, 13, 14, 15, 24] →
        exec (.csrw n v) s = .next (failed 1 s)

/-- A value that CSRW accepts for a register other than EVENT is read back by CSRR as it was written:
an illegal value is refused, never adjusted (10_state.md R31). -/
def Obligations.AcceptedCsrValueIsReadBack : Prop :=
  ∀ (s t : State) (n : BitVec 24) (v : Word),
    s.params.Legal → n ≠ 0x18 → exec (.csrw n v) s = .next t → t.rsp = some 0 →
      exec (.csrr n) t = .next (answered v t)

/-- SETLEN cuts the packet or grows it with zero bytes, and refuses a length above BUFSZ (R244). -/
def Obligations.SetlenCutsOrZeroFills : Prop :=
  ∀ (s : State) (n : Word),
    (n.toNat ≤ s.params.bufsz → ∃ t, exec (.setlen n) s = .next t ∧
      { t with buf := s.buf, len := s.len } = answered 0 s ∧ t.len = n.toNat ∧
      (∀ a, a < n.toNat → a < s.len → Memory.read t.buf a = Memory.read s.buf a) ∧
      (∀ a, a < n.toNat → s.len ≤ a → Memory.read t.buf a = 0)) ∧
    (s.params.bufsz < n.toNat → exec (.setlen n) s = .next (failed 2 s))

/-- RDLEN returns LEN, and RDB the byte at its offset or E_BOUNDS; neither changes anything else (R245,
R246). -/
def Obligations.RdlenAndRdbReadOnly : Prop :=
  ∀ s : State,
    exec .rdlen s = .next (answered (BitVec.ofNat 32 s.len) s) ∧
    ∀ off : BitVec 24,
      (off.toNat < s.len →
        exec (.rdb off) s = .next (answered ((Memory.read s.buf off.toNat).setWidth 32) s)) ∧
      (s.len ≤ off.toNat → exec (.rdb off) s = .next (failed 2 s))

/-- WRB stores its byte at its offset and changes no other byte; it cannot extend the packet (R247). -/
def Obligations.WrbStoresOneByte : Prop :=
  ∀ (s : State) (off : BitVec 24) (byte : Byte),
    (off.toNat < s.len → ∃ t, exec (.wrb off byte) s = .next t ∧ OnlyBufAndAnswer 0 s t ∧
      ∀ a, Memory.read t.buf a = if a = off.toNat then byte else Memory.read s.buf a) ∧
    (s.len ≤ off.toNat → exec (.wrb off byte) s = .next (failed 2 s))

/-- APPB appends its byte and returns the new length, or E_BOUNDS when the buffer is full (R248). -/
def Obligations.AppbAppendsOneByte : Prop :=
  ∀ (s : State) (byte : Byte),
    (s.len < s.params.bufsz → ∃ t, exec (.appb byte) s = .next t ∧ t.len = s.len + 1 ∧
      { t with buf := s.buf, len := s.len } = answered (BitVec.ofNat 32 (s.len + 1)) s ∧
      ∀ a, Memory.read t.buf a = if a = s.len then byte else Memory.read s.buf a) ∧
    (s.params.bufsz ≤ s.len → exec (.appb byte) s = .next (failed 2 s))

/-- LDPKT loads a packet: whatever BUF held, its bytes are then the packet's, in order, and its length
the packet's, and nothing else but the response has changed (30_encoding.md R88). -/
def Obligations.LdpktLoadsThePacket : Prop :=
  ∀ (s : State) (bytes : List Byte), bytes.length ≤ s.params.bufsz →
    ∃ t, runCommands (ldpkt bytes) s = .next t ∧ t.len = bytes.length ∧
      (∀ (k : Nat) (h : k < bytes.length), Memory.read t.buf k = bytes[k]) ∧
      { t with buf := s.buf, len := s.len, rsp := s.rsp } = s

/-! ## Checksums -/

/-- SUM16 returns the sum modulo 2^16 of the big-endian words of its range; an odd count is E_INVARG,
tested first, a range outside the packet E_BOUNDS (41_checksum.md R101). -/
def Obligations.Sum16AddsBigEndianWords : Prop :=
  ∀ (s : State) (off : BitVec 24) (n : Word),
    (n.toNat % 2 = 1 → exec (.sum16 off n) s = .next (failed 3 s)) ∧
    (n.toNat % 2 = 0 → s.len < off.toNat + n.toNat → exec (.sum16 off n) s = .next (failed 2 s)) ∧
    (n.toNat % 2 = 0 → off.toNat + n.toNat ≤ s.len → ∃ v : Word,
      exec (.sum16 off n) s = .next (answered v s) ∧
      v.toNat = (∑ k ∈ Finset.range (n.toNat / 2),
        (byteAt s (off.toNat + 2 * k) * 256 + byteAt s (off.toNat + 2 * k + 1))) % 65536)

/-- Two bytes that hold the two's-complement negation of a sum bring the longer sum to 0 (R102). -/
def Obligations.NegatedSumBringsSumToZero : Prop :=
  ∀ (s : State) (off : BitVec 24) (n n' v : Word),
    exec (.sum16 off n) s = .next (answered v s) → n'.toNat = n.toNat + 2 →
    off.toNat + n'.toNat ≤ s.len →
    byteAt s (off.toNat + n.toNat) * 256 + byteAt s (off.toNat + n.toNat + 1) =
      (65536 - v.toNat) % 65536 →
    exec (.sum16 off n') s = .next (answered 0 s)

/-- CRC16 returns the CRC register after the loop of R103 from CRCIV, or E_BOUNDS (R103). -/
def Obligations.Crc16RunsTheBitLoop : Prop :=
  ∀ (s : State) (off : BitVec 24) (n : Word),
    (s.len < off.toNat + n.toNat → exec (.crc16 off n) s = .next (failed 2 s)) ∧
    (off.toNat + n.toNat ≤ s.len → ∃ v : Word, exec (.crc16 off n) s = .next (answered v s) ∧
      v.toNat = crcLoopNat s off.toNat n.toNat s.csr.crcIv.toNat)

/-- A CRC over a range is the CRC over its second part started at the CRC over its first (R105 (1)). -/
def Obligations.CrcSplitsAtAnyPoint : Prop :=
  ∀ (s : State) (off off' : BitVec 24) (n m k v : Word),
    n.toNat = m.toNat + k.toNat → off'.toNat = off.toNat + m.toNat → off.toNat + n.toNat ≤ s.len →
    exec (.crc16 off m) s = .next (answered v s) →
    ∃ w : Word,
      exec (.crc16 off' k) { s with csr := { s.csr with crcIv := v.setWidth 16 } } =
        .next (answered w { s with csr := { s.csr with crcIv := v.setWidth 16 } }) ∧
      exec (.crc16 off n) s = .next (answered w s)

/-- A range followed by its own CRC, high byte first, has the CRC 0, for any CRCIV (R105 (2)). -/
def Obligations.CrcResidueIsZero : Prop :=
  ∀ (s : State) (off : BitVec 24) (n n' v : Word),
    exec (.crc16 off n) s = .next (answered v s) → n'.toNat = n.toNat + 2 →
    off.toNat + n'.toNat ≤ s.len →
    byteAt s (off.toNat + n.toNat) * 256 + byteAt s (off.toNat + n.toNat + 1) = v.toNat →
    exec (.crc16 off n') s = .next (answered 0 s)

/-- FLET16 returns the two sums modulo 255, in closed form: the sum of the bytes in the low byte, the
sum of the bytes weighted by how many of them remain in the high byte (R106). -/
def Obligations.Flet16HasTheClosedForm : Prop :=
  ∀ (s : State) (off : BitVec 24) (n : Word),
    (s.len < off.toNat + n.toNat → exec (.flet16 off n) s = .next (failed 2 s)) ∧
    (off.toNat + n.toNat ≤ s.len → ∃ v : Word, exec (.flet16 off n) s = .next (answered v s) ∧
      v.toNat =
        (∑ k ∈ Finset.range n.toNat, (n.toNat - k) * byteAt s (off.toNat + k)) % 255 * 256 +
          (∑ k ∈ Finset.range n.toNat, byteAt s (off.toNat + k)) % 255)

/-- CKSUM is the command CKSEL selects, with the same operands, and answers for every range inside the
packet that the selected command takes (R111). -/
def Obligations.CksumIsTheSelectedCommand : Prop :=
  ∀ (s : State) (off : BitVec 24) (n : Word),
    exec (.cksum off n) s =
      (match s.csr.ckSel with
        | .sum => exec (.sum16 off n) s
        | .crc => exec (.crc16 off n) s
        | .fletcher => exec (.flet16 off n) s) ∧
    (off.toNat + n.toNat ≤ s.len → (s.csr.ckSel = .sum → n.toNat % 2 = 0) →
      ∃ v : Word, v.toNat < 65536 ∧ exec (.cksum off n) s = .next (answered v s))

/-! ## Header codec -/

/-- The four fields of header bytes 0 and 1, each as R120's table places it, and E_BOUNDS for a packet
of fewer than 2 bytes (42_ccsds_header.md R124 to R127). -/
def Obligations.GetFieldsOfFirstHalfword : Prop :=
  ∀ s : State,
    (2 ≤ s.len →
      exec .gver s = .next (answered (BitVec.ofNat 32 (byteAt s 0 / 32)) s) ∧
      exec .gtype s = .next (answered (BitVec.ofNat 32 (byteAt s 0 / 16 % 2)) s) ∧
      exec .gshf s = .next (answered (BitVec.ofNat 32 (byteAt s 0 / 8 % 2)) s) ∧
      exec .gapid s = .next (answered (BitVec.ofNat 32 (byteAt s 0 % 8 * 256 + byteAt s 1)) s)) ∧
    (s.len < 2 → ∀ i ∈ [Instr.gver, .gtype, .gshf, .gapid], exec i s = .next (failed 2 s))

/-- The fields of header bytes 2 to 5 as R120's table places them, the declared total length, and
E_BOUNDS for a packet that ends before them (R128 to R131). -/
def Obligations.GetFieldsOfLaterHalfwords : Prop :=
  ∀ s : State,
    (4 ≤ s.len →
      exec .gseqf s = .next (answered (BitVec.ofNat 32 (byteAt s 2 / 64)) s) ∧
      exec .gseq s = .next (answered (BitVec.ofNat 32 (byteAt s 2 % 64 * 256 + byteAt s 3)) s)) ∧
    (s.len < 4 → ∀ i ∈ [Instr.gseqf, .gseq], exec i s = .next (failed 2 s)) ∧
    (6 ≤ s.len →
      exec .glenf s = .next (answered (BitVec.ofNat 32 (byteAt s 4 * 256 + byteAt s 5)) s) ∧
      exec .gplen s = .next (answered (BitVec.ofNat 32 (byteAt s 4 * 256 + byteAt s 5 + 7)) s)) ∧
    (s.len < 6 → ∀ i ∈ [Instr.glenf, .gplen], exec i s = .next (failed 2 s))

/-- The secondary-header fields at the build's offsets, big-endian, and E_BOUNDS for a packet that
ends before them (R140, R141, R144). -/
def Obligations.GetSecondaryHeaderFields : Prop :=
  ∀ s : State,
    (s.params.shCoarseOff + 4 ≤ s.len → exec .gcoarse s = .next (answered (BitVec.ofNat 32
      (((byteAt s s.params.shCoarseOff * 256 + byteAt s (s.params.shCoarseOff + 1)) * 256 +
        byteAt s (s.params.shCoarseOff + 2)) * 256 + byteAt s (s.params.shCoarseOff + 3))) s)) ∧
    (s.len < s.params.shCoarseOff + 4 → exec .gcoarse s = .next (failed 2 s)) ∧
    (s.params.shFineOff < s.len →
      exec .gfine s = .next (answered (BitVec.ofNat 32 (byteAt s s.params.shFineOff)) s)) ∧
    (s.len ≤ s.params.shFineOff → exec .gfine s = .next (failed 2 s)) ∧
    (s.params.shCkiOff < s.len → exec .gcki s = .next (answered
      (BitVec.ofNat 32 (byteAt s s.params.shCkiOff / 2 ^ s.params.shCkiBit % 2)) s)) ∧
    (s.len ≤ s.params.shCkiOff → exec .gcki s = .next (failed 2 s))

/-- SVER, STYPE, SSHF and SAPID change only their field of header bytes 0 and 1, and nothing when the
packet has fewer than 2 bytes (R132 to R135). -/
def Obligations.SetFieldsOfFirstHalfword : Prop :=
  ∀ s : State,
    (2 ≤ s.len →
      (∀ v : BitVec 3, ∃ t, exec (.sver v) s = .next t ∧ OnlyBufAndAnswer 0 s t ∧
        byteAt t 0 = v.toNat * 32 + byteAt s 0 % 32 ∧
        ∀ a, a ≠ 0 → Memory.read t.buf a = Memory.read s.buf a) ∧
      (∀ v : BitVec 1, ∃ t, exec (.stype v) s = .next t ∧ OnlyBufAndAnswer 0 s t ∧
        byteAt t 0 = byteAt s 0 / 32 * 32 + v.toNat * 16 + byteAt s 0 % 16 ∧
        ∀ a, a ≠ 0 → Memory.read t.buf a = Memory.read s.buf a) ∧
      (∀ v : BitVec 1, ∃ t, exec (.sshf v) s = .next t ∧ OnlyBufAndAnswer 0 s t ∧
        byteAt t 0 = byteAt s 0 / 16 * 16 + v.toNat * 8 + byteAt s 0 % 8 ∧
        ∀ a, a ≠ 0 → Memory.read t.buf a = Memory.read s.buf a) ∧
      (∀ v : Apid, ∃ t, exec (.sapid v) s = .next t ∧ OnlyBufAndAnswer 0 s t ∧
        byteAt t 0 = byteAt s 0 / 8 * 8 + v.toNat / 256 ∧ byteAt t 1 = v.toNat % 256 ∧
        ∀ a, a ≠ 0 → a ≠ 1 → Memory.read t.buf a = Memory.read s.buf a)) ∧
    (s.len < 2 →
      (∀ v, exec (.sver v) s = .next (failed 2 s)) ∧ (∀ v, exec (.stype v) s = .next (failed 2 s)) ∧
      (∀ v, exec (.sshf v) s = .next (failed 2 s)) ∧ (∀ v, exec (.sapid v) s = .next (failed 2 s)))

/-- SSEQF, SSEQ and SLENF change only their field of header bytes 2 to 5, and nothing when the packet
ends before it (R136 to R138). -/
def Obligations.SetFieldsOfLaterHalfwords : Prop :=
  ∀ s : State,
    (4 ≤ s.len →
      (∀ v : BitVec 2, ∃ t, exec (.sseqf v) s = .next t ∧ OnlyBufAndAnswer 0 s t ∧
        byteAt t 2 = v.toNat * 64 + byteAt s 2 % 64 ∧
        ∀ a, a ≠ 2 → Memory.read t.buf a = Memory.read s.buf a) ∧
      (∀ v : SeqCount, ∃ t, exec (.sseq v) s = .next t ∧ OnlyBufAndAnswer 0 s t ∧
        byteAt t 2 = byteAt s 2 / 64 * 64 + v.toNat / 256 ∧ byteAt t 3 = v.toNat % 256 ∧
        ∀ a, a ≠ 2 → a ≠ 3 → Memory.read t.buf a = Memory.read s.buf a)) ∧
    (s.len < 4 → (∀ v, exec (.sseqf v) s = .next (failed 2 s)) ∧
      (∀ v, exec (.sseq v) s = .next (failed 2 s))) ∧
    (6 ≤ s.len → ∀ v : Half, ∃ t, exec (.slenf v) s = .next t ∧ OnlyBufAndAnswer 0 s t ∧
      byteAt t 4 = v.toNat / 256 ∧ byteAt t 5 = v.toNat % 256 ∧
      ∀ a, a ≠ 4 → a ≠ 5 → Memory.read t.buf a = Memory.read s.buf a) ∧
    (s.len < 6 → ∀ v, exec (.slenf v) s = .next (failed 2 s))

/-- SCOARSE, SFINE and SCKI change only their field of the secondary header, and nothing when the
packet ends before it (R142, R143, R145). -/
def Obligations.SetSecondaryHeaderFields : Prop :=
  ∀ s : State,
    (∀ v : Word, s.params.shCoarseOff + 4 ≤ s.len →
      ∃ t, exec (.scoarse v) s = .next t ∧ OnlyBufAndAnswer 0 s t ∧
        (∀ k, k < 4 → byteAt t (s.params.shCoarseOff + k) = v.toNat / 256 ^ (3 - k) % 256) ∧
        ∀ a, a < s.params.shCoarseOff ∨ s.params.shCoarseOff + 4 ≤ a →
          Memory.read t.buf a = Memory.read s.buf a) ∧
    (∀ v, s.len < s.params.shCoarseOff + 4 → exec (.scoarse v) s = .next (failed 2 s)) ∧
    (∀ v : Byte, s.params.shFineOff < s.len →
      ∃ t, exec (.sfine v) s = .next t ∧ OnlyBufAndAnswer 0 s t ∧
        ∀ a, Memory.read t.buf a = if a = s.params.shFineOff then v else Memory.read s.buf a) ∧
    (∀ v, s.len ≤ s.params.shFineOff → exec (.sfine v) s = .next (failed 2 s)) ∧
    (∀ v : BitVec 1, s.params.shCkiOff < s.len → s.params.shCkiBit ≤ 7 →
      ∃ t, exec (.scki v) s = .next t ∧ OnlyBufAndAnswer 0 s t ∧
        (∀ j, j < 8 → (Memory.read t.buf s.params.shCkiOff).getLsbD j =
          if j = s.params.shCkiBit then v == 1
          else (Memory.read s.buf s.params.shCkiOff).getLsbD j) ∧
        ∀ a, a ≠ s.params.shCkiOff → Memory.read t.buf a = Memory.read s.buf a) ∧
    (∀ v, s.len ≤ s.params.shCkiOff → exec (.scki v) s = .next (failed 2 s))

/-- SHDR overwrites the six header bytes with its arguments, version 0 and the length field `LEN - 7`,
which it returns; E_BOUNDS below 6 bytes, E_INVARG at 6 (R139). -/
def Obligations.ShdrWritesTheHeader : Prop :=
  ∀ (s : State) (type shf : BitVec 1) (apid : Apid) (seqf : BitVec 2) (seq : SeqCount),
    (s.len < 6 → exec (.shdr type shf apid seqf seq) s = .next (failed 2 s)) ∧
    (s.len = 6 → exec (.shdr type shf apid seqf seq) s = .next (failed 3 s)) ∧
    (7 ≤ s.len → s.len ≤ 65542 → ∃ t, exec (.shdr type shf apid seqf seq) s = .next t ∧
      OnlyBufAndAnswer (BitVec.ofNat 32 (s.len - 7)) s t ∧
      byteAt t 0 = type.toNat * 16 + shf.toNat * 8 + apid.toNat / 256 ∧
      byteAt t 1 = apid.toNat % 256 ∧ byteAt t 2 = seqf.toNat * 64 + seq.toNat / 256 ∧
      byteAt t 3 = seq.toNat % 256 ∧ byteAt t 4 = (s.len - 7) / 256 ∧
      byteAt t 5 = (s.len - 7) % 256 ∧
      ∀ a, 6 ≤ a → Memory.read t.buf a = Memory.read s.buf a)

/-- What SHDR wrote is read back field by field, for every value of every argument (R139's round
trip). -/
def Obligations.ShdrFieldsAreReadBack : Prop :=
  ∀ (s t : State) (type shf : BitVec 1) (apid : Apid) (seqf : BitVec 2) (seq : SeqCount),
    7 ≤ s.len → s.len ≤ 65542 → exec (.shdr type shf apid seqf seq) s = .next t →
      exec .gver t = .next (answered 0 t) ∧
      exec .gtype t = .next (answered (type.setWidth 32) t) ∧
      exec .gshf t = .next (answered (shf.setWidth 32) t) ∧
      exec .gapid t = .next (answered (apid.setWidth 32) t) ∧
      exec .gseqf t = .next (answered (seqf.setWidth 32) t) ∧
      exec .gseq t = .next (answered (seq.setWidth 32) t) ∧
      exec .gplen t = .next (answered (BitVec.ofNat 32 s.len) t)

/-! ## Framer -/

/-- FINIT constructs the framer of FMODE from the framing registers, or leaves it OFF with E_CONFIG
(43_framer.md R162). -/
def Obligations.FinitConstructsOrRefuses : Prop :=
  ∀ s : State,
    (s.csr.fMode = .fixed → 1 ≤ s.csr.pktSize.toNat →
      exec .finit s = .next (answered 0 { s with fr := { s.fr with
        fst := .body, fpos := 0, flen := 0, ftot := s.csr.pktSize.toNat
        cfg := ⟨.fixed, s.csr.pktSize, s.csr.maxLen, s.csr.lfOff, s.csr.lfLen, s.csr.lfOrd,
          s.csr.lfAdj, 0, 0⟩ } })) ∧
    (s.csr.fMode = .ccsds → 7 ≤ s.csr.maxLen.toNat →
      exec .finit s = .next (answered 0 { s with fr := { s.fr with
        fst := .header, fpos := 0, flen := 0, ftot := 0
        cfg := ⟨.ccsds, s.csr.pktSize, s.csr.maxLen, s.csr.lfOff, s.csr.lfLen, s.csr.lfOrd,
          s.csr.lfAdj, 0, 6⟩ } })) ∧
    (s.csr.fMode = .generic → s.csr.fcfgSet = 0b1111 →
      s.csr.lfOff.toNat + s.csr.lfLen.toNat ≤ s.params.bufsz →
      exec .finit s = .next (answered 0 { s with fr := { s.fr with
        fst := .header, fpos := 0, flen := 0, ftot := 0
        cfg := ⟨.generic, s.csr.pktSize, s.csr.maxLen, s.csr.lfOff, s.csr.lfLen, s.csr.lfOrd,
          s.csr.lfAdj, s.csr.strip, s.csr.lfOff.toNat + s.csr.lfLen.toNat⟩ } })) ∧
    (s.csr.fMode = .noFraming ∨ (s.csr.fMode = .fixed ∧ s.csr.pktSize = 0) ∨
        (s.csr.fMode = .ccsds ∧ s.csr.maxLen.toNat < 7) ∨
        (s.csr.fMode = .generic ∧ (s.csr.fcfgSet ≠ 0b1111 ∨
          s.params.bufsz < s.csr.lfOff.toNat + s.csr.lfLen.toNat)) →
      exec .finit s = .next (failed 4 { s with fr := { s.fr with
        fst := .off, fpos := 0, flen := 0, ftot := 0 } }))

/-- What FPUSH does with one byte, in every framer state: refused outside HEADER and BODY; consumed
and, where it completes the header, the resolved total tested and latched; 1 exactly when the packet
is complete (R163). -/
def Obligations.FpushConsumesOneByte : Prop :=
  ∀ (s : State) (byte : Byte) (f : Framer),
    f = { s.fr with
      fpos := s.fr.fpos + 1
      fhdr := if s.fr.fpos < s.fr.cfg.e then Memory.write s.fr.fhdr s.fr.fpos byte else s.fr.fhdr
      fbuf := if s.fr.cfg.strip.toNat ≤ s.fr.fpos then Memory.write s.fr.fbuf s.fr.flen byte
        else s.fr.fbuf
      flen := if s.fr.cfg.strip.toNat ≤ s.fr.fpos then s.fr.flen + 1 else s.fr.flen } →
    (s.fr.fst = .off ∨ s.fr.fst = .ready ∨ s.fr.fst = .fault →
      exec (.fpush byte) s = .next (failed 8 s)) ∧
    (s.fr.fst = .body → s.fr.fpos + 1 ≠ s.fr.ftot →
      exec (.fpush byte) s = .next (answered 0 { s with fr := f })) ∧
    (s.fr.fst = .body → s.fr.fpos + 1 = s.fr.ftot →
      exec (.fpush byte) s = .next (answered 1 { s with fr := { f with fst := .ready } })) ∧
    (s.fr.fst = .header → s.fr.fpos + 1 ≠ s.fr.cfg.e →
      exec (.fpush byte) s = .next (answered 0 { s with fr := f })) ∧
    (s.fr.fst = .header → s.fr.fpos + 1 = s.fr.cfg.e →
      framerResolve f < (s.fr.cfg.e : Int) ∨ framerResolve f < (s.fr.cfg.strip.toNat : Int) →
      exec (.fpush byte) s = .next (failed 7 { s with fr := { f with fst := .fault } })) ∧
    (s.fr.fst = .header → s.fr.fpos + 1 = s.fr.cfg.e → ∀ total : Nat,
      framerResolve f = (total : Int) → s.fr.cfg.e ≤ total → s.fr.cfg.strip.toNat ≤ total →
      (s.fr.cfg.maxLen.toNat < total →
        exec (.fpush byte) s = .next (failed 6 { s with fr := { f with fst := .fault } })) ∧
      (total ≤ s.fr.cfg.maxLen.toNat → total ≠ s.fr.cfg.e →
        exec (.fpush byte) s =
          .next (answered 0 { s with fr := { f with fst := .body, ftot := total } })) ∧
      (total ≤ s.fr.cfg.maxLen.toNat → total = s.fr.cfg.e →
        exec (.fpush byte) s =
          .next (answered 1 { s with fr := { f with fst := .ready, ftot := total } })))

/-- The total a complete header declares: `lastTwoBytes + 7` in the CCSDS variant; in the generic one
the field in its byte order, unsigned, plus the signed adjustment (R164, R170). -/
def Obligations.HeaderResolvesToDeclaredTotal : Prop :=
  ∀ f : Framer,
    (f.cfg.mode = .ccsds → framerResolve f =
      ((Memory.read f.fhdr 4).toNat * 256 + (Memory.read f.fhdr 5).toNat + 7 : Nat)) ∧
    (f.cfg.mode = .generic → f.cfg.lfOrd = 0 → framerResolve f =
      (∑ k ∈ Finset.range f.cfg.lfLen.toNat, (Memory.read f.fhdr (f.cfg.lfOff.toNat + k)).toNat *
        256 ^ (f.cfg.lfLen.toNat - 1 - k) : Nat) +
      (if f.cfg.lfAdj.toNat < 2 ^ 31 then (f.cfg.lfAdj.toNat : Int)
        else (f.cfg.lfAdj.toNat : Int) - 2 ^ 32)) ∧
    (f.cfg.mode = .generic → f.cfg.lfOrd = 1 → framerResolve f =
      (∑ k ∈ Finset.range f.cfg.lfLen.toNat, (Memory.read f.fhdr (f.cfg.lfOff.toNat + k)).toNat *
        256 ^ k : Nat) +
      (if f.cfg.lfAdj.toNat < 2 ^ 31 then (f.cfg.lfAdj.toNat : Int)
        else (f.cfg.lfAdj.toNat : Int) - 2 ^ 32))

/-- FEOF ends the stream, with E_EOF inside a packet; FRST ends it from any state; both leave the
framer OFF with its counters 0 (R165, R167). -/
def Obligations.FeofAndFrstTurnTheFramerOff : Prop :=
  ∀ (s t : State), t = { s with fr := { s.fr with fst := .off, fpos := 0, ftot := 0, flen := 0 } } →
    exec .frst s = .next (answered 0 t) ∧
    (s.fr.fst = .header ∨ s.fr.fst = .body →
      (s.fr.fpos = 0 → exec .feof s = .next (answered 0 t)) ∧
      (0 < s.fr.fpos → exec .feof s = .next (failed 5 t))) ∧
    (s.fr.fst = .off ∨ s.fr.fst = .ready ∨ s.fr.fst = .fault →
      exec .feof s = .next (failed 8 s))

/-- FTAKE in READY makes the emitted packet the content of BUF, returns its length and starts the next
packet; in any other state it is refused (R166). -/
def Obligations.FtakeDeliversThePacket : Prop :=
  ∀ s : State,
    (s.fr.fst = .ready → ∃ t, exec .ftake s = .next t ∧ t.len = s.fr.flen ∧
      { t with buf := s.buf, len := s.len, fr := s.fr } = answered (BitVec.ofNat 32 s.fr.flen) s ∧
      (∀ k, k < s.fr.flen → Memory.read t.buf k = Memory.read s.fr.fbuf k) ∧
      (s.fr.cfg.mode = .fixed → t.fr = { s.fr with
        fst := .body, fpos := 0, flen := 0, ftot := s.fr.cfg.pktSize.toNat }) ∧
      (s.fr.cfg.mode ≠ .fixed → t.fr = { s.fr with
        fst := .header, fpos := 0, flen := 0, ftot := 0 })) ∧
    (s.fr.fst ≠ .ready → exec .ftake s = .next (failed 8 s))

/-- Fixed-size framing: from any state, FINIT, any PKTSIZE bytes and FTAKE put exactly those bytes into
BUF, and of the pushes only the last returns 1 (R168). -/
def Obligations.FixedFramingDeliversTheBytes : Prop :=
  ∀ (s : State) (bytes : List Byte),
    s.csr.fMode = .fixed → bytes.length = s.csr.pktSize.toNat → 1 ≤ bytes.length →
    (∀ m, 0 < m → m ≤ bytes.length →
      ∃ t, runCommands (Instr.finit :: ffeed (bytes.take m)) s = .next t ∧
        t.rsp = some (if m = bytes.length then 1 else 0)) ∧
    ∃ t, runCommands (frameAndTake bytes) s = .next t ∧ t.len = bytes.length ∧
      ∀ (k : Nat) (h : k < bytes.length), Memory.read t.buf k = bytes[k]

/-- CCSDS-implied framing: any stream whose sixth and fifth byte declare its length, within MAXLEN, is
delivered whole, header included (R169). -/
def Obligations.CcsdsFramingDeliversTheBytes : Prop :=
  ∀ (s : State) (bytes : List Byte) (b4 b5 : Byte),
    s.csr.fMode = .ccsds → bytes[4]? = some b4 → bytes[5]? = some b5 →
    bytes.length = b4.toNat * 256 + b5.toNat + 7 → bytes.length ≤ s.csr.maxLen.toNat →
    (∀ m, 0 < m → m ≤ bytes.length →
      ∃ t, runCommands (Instr.finit :: ffeed (bytes.take m)) s = .next t ∧
        t.rsp = some (if m = bytes.length then 1 else 0)) ∧
    ∃ t, runCommands (frameAndTake bytes) s = .next t ∧ t.len = bytes.length ∧
      ∀ (k : Nat) (h : k < bytes.length), Memory.read t.buf k = bytes[k]

/-- Generic length-field framing: any stream whose length field, in the selected byte order and with
the signed adjustment, declares its length is delivered from position STRIP on (R170, R171). -/
def Obligations.GenericFramingDeliversTheBytes : Prop :=
  ∀ (s : State) (bytes : List Byte),
    s.csr.fMode = .generic → s.csr.fcfgSet = 0b1111 → 1 ≤ s.csr.lfLen.toNat →
    s.csr.lfOff.toNat + s.csr.lfLen.toNat ≤ s.params.bufsz →
    s.csr.lfOff.toNat + s.csr.lfLen.toNat ≤ bytes.length → s.csr.strip.toNat ≤ bytes.length →
    bytes.length ≤ s.csr.maxLen.toNat →
    (bytes.length : Int) =
      ((if s.csr.lfOrd = 0 then
          bigEndian ((bytes.drop s.csr.lfOff.toNat).take s.csr.lfLen.toNat)
        else littleEndian ((bytes.drop s.csr.lfOff.toNat).take s.csr.lfLen.toNat) : Nat) : Int) +
        s.csr.lfAdj.toInt →
    ∃ t, runCommands (frameAndTake bytes) s = .next t ∧
      t.len = bytes.length - s.csr.strip.toNat ∧
      ∀ (k : Nat) (h : s.csr.strip.toNat + k < bytes.length),
        Memory.read t.buf k = bytes[s.csr.strip.toNat + k]

/-- Whatever a command does to the framer's state is one of the transitions R161 lists for it; in
FAULT only FINIT, FRST and SRST change it (R161, R172). -/
def Obligations.FramerMovesAsListed : Prop :=
  ∀ (i : Instr) (s t : State), exec i s = .next t →
    (t.fr.fst = s.fr.fst ∨ framerMoves i s.fr.fst t.fr.fst) ∧
    (s.fr.fst = .fault → t.fr.fst ≠ .fault → i = .finit ∨ i = .frst ∨ i = .srst)

/-! ## Sequence tracker and pipelines -/

/-- SEQCHK reports a gap exactly when the entry is valid and the count is not its successor modulo
2^14, replaces the entry and no other, and sets EVENT.SEQGAP on a gap (44_rx_pipeline.md R208, R209);
SEQGET returns the entry (R210). -/
def Obligations.SeqchkComparesWithTheLastCount : Prop :=
  ∀ (s : State) (apid : Apid) (seq : SeqCount),
    (∃ (t : State) (gap : Bool),
      (gap = true ↔ ∃ l, seqGet s.rxSeq apid = some l ∧ seq.toNat ≠ (l.toNat + 1) % 16384) ∧
      exec (.seqchk apid seq) s = .next t ∧
      { t with rxSeq := s.rxSeq, event := s.event } =
        answered (if gap then 1 else 0) s ∧
      t.event = (if gap then s.event ||| 0x04 else s.event) ∧
      seqGet t.rxSeq apid = some seq ∧
      ∀ b, b ≠ apid → seqGet t.rxSeq b = seqGet s.rxSeq b) ∧
    (∀ l, seqGet s.rxSeq apid = some l →
      exec (.seqget apid) s = .next (answered (BitVec.ofNat 32 (65536 + l.toNat)) s)) ∧
    (seqGet s.rxSeq apid = none → exec (.seqget apid) s = .next (answered 0 s))

/-- A run of consecutive counts of one APID, of any length and across the wrap at 16384, never reports
a gap: no response is 1 and no event is set (R208). -/
def Obligations.ConsecutiveCountsNeverGap : Prop :=
  ∀ (s : State) (apid : Apid) (q : SeqCount) (k : Nat), seqGet s.rxSeq apid = none →
    ∃ t, runCommands ((List.range (k + 1)).map fun j => .seqchk apid (q + BitVec.ofNat 14 j)) s =
        .next t ∧ t.rsp = some 0 ∧ t.event = s.event ∧
      seqGet t.rxSeq apid = some (q + BitVec.ofNat 14 k)

/-- SEQNEXT assigns the successor of the last count modulo 2^14, or TXSEQ_FIRST to an APID that has
none (45_tx_pipeline.md R223, R228); TXSEQGET returns the entry (R229). -/
def Obligations.SeqnextAssignsTheNextCount : Prop :=
  ∀ (s : State) (apid : Apid),
    (∃ (t : State) (n : SeqCount),
      (∀ l, seqGet s.txSeq apid = some l → n.toNat = (l.toNat + 1) % 16384) ∧
      (seqGet s.txSeq apid = none → n = s.params.txseqFirst) ∧
      exec (.seqnext apid) s = .next t ∧
      { t with txSeq := s.txSeq } = answered (n.setWidth 32) s ∧
      seqGet t.txSeq apid = some n ∧ ∀ b, b ≠ apid → seqGet t.txSeq b = seqGet s.txSeq b) ∧
    (∀ l, seqGet s.txSeq apid = some l →
      exec (.txseqget apid) s = .next (answered (BitVec.ofNat 32 (65536 + l.toNat)) s)) ∧
    (seqGet s.txSeq apid = none → exec (.txseqget apid) s = .next (answered 0 s))

/-- A packet shorter than RXMIN is dropped: the response is 1, and nothing but RXFLAGS and
EVENT.TOOSHORT is written (R203). -/
def Obligations.RxprocDropsShortPackets : Prop :=
  ∀ s : State, s.len < s.csr.rxMin.toNat →
    exec .rxproc s = .next (answered 1 { s with
      event := s.event ||| 0x01, rx := { s.rx with flags := 1 } })

/-- RXPROC on a packet of at least RXMIN bytes: the result registers, the events and the table are
those R201 computes from the packet's bytes, and BUF, LEN and everything else keep their values. -/
def Obligations.RxprocReportsThePacket : Prop :=
  ∀ s : State, StateInv s → s.csr.rxMin.toNat ≤ s.len →
    ∃ (t : State) (corrupt gap shf cki ckfail : Bool) (apid : Apid) (seq : SeqCount),
      apid.toNat = packetApid s ∧ seq.toNat = packetSeq s ∧
      (shf = true ↔ PacketHasShf s) ∧ (cki = true ↔ PacketHasCki s) ∧
      (ckfail = true ↔ cki = true ∧ s.csr.ckSel = .sum ∧ s.len % 2 = 1) ∧
      (corrupt = true ↔ cki = true ∧
        cksumOf s.csr.ckSel s.csr.crcIv (Memory.bytes s.buf 0 (s.len - 2)) ≠
          some (Memory.read2 s.buf (s.len - 2))) ∧
      (gap = true ↔ ∃ l, seqGet s.rxSeq apid = some l ∧ seq.toNat ≠ (l.toNat + 1) % 16384) ∧
      exec .rxproc s = .next t ∧
      { t with rsp := s.rsp, event := s.event, rxSeq := s.rxSeq, rx := s.rx } = s ∧
      t.rx.flags.toNat = 2 * corrupt.toNat + 4 * gap.toNat + 8 * shf.toNat + 16 * cki.toNat +
        32 * ckfail.toNat ∧
      t.rx.seqId.toNat = apid.toNat * 65536 + seq.toNat ∧
      t.rx.coarse.toNat = ((byteAt s s.params.shCoarseOff * 256 +
        byteAt s (s.params.shCoarseOff + 1)) * 256 + byteAt s (s.params.shCoarseOff + 2)) * 256 +
        byteAt s (s.params.shCoarseOff + 3) ∧
      t.rx.fine.toNat = byteAt s s.params.shFineOff ∧
      t.rsp = some (t.rx.flags.setWidth 64) ∧
      t.event = (s.event ||| (if corrupt then 0x02 else 0) ||| (if gap then 0x04 else 0) |||
        (if ckfail then 0x08 else 0)) ∧
      seqGet t.rxSeq apid = some seq ∧ ∀ b, b ≠ apid → seqGet t.rxSeq b = seqGet s.rxSeq b

/-- TXPROC refuses a packet without a complete primary header or whose final length the buffer or the
length field cannot hold, and changes nothing then (R221). -/
def Obligations.TxprocRefusesUnfitPackets : Prop :=
  ∀ (s : State) (fine : Byte) (coarse : Word),
    (s.len < 6 → exec (.txproc fine coarse) s = .next (failed 2 s)) ∧
    (6 ≤ s.len → s.params.bufsz < (txLengths s).2.2 →
      exec (.txproc fine coarse) s = .next (failed 2 s)) ∧
    (6 ≤ s.len → (txLengths s).2.2 ≤ s.params.bufsz → (txLengths s).2.2 < 7 →
      exec (.txproc fine coarse) s = .next (failed 3 s))

/-- TXPROC on a packet it does not refuse: the final length, every byte of the final packet, the count,
the checksum over all bytes before the last two, the result registers, the events and the table are
those R221 computes, and everything else keeps its value. -/
def Obligations.TxprocStampsThePacket : Prop :=
  ∀ (s : State) (fine : Byte) (coarse : Word),
    StateInv s → 6 ≤ s.len → (txLengths s).2.2 ≤ s.params.bufsz → 7 ≤ (txLengths s).2.2 →
    ∃ (t : State) (cki cw cf shf tw tf : Bool) (apid : Apid) (n : SeqCount) (ck : Half),
      apid.toNat = packetApid s ∧ (shf = true ↔ PacketHasShf s) ∧ (cki = true ↔ PacketHasCki s) ∧
      (∀ l, seqGet s.txSeq apid = some l → n.toNat = (l.toNat + 1) % 16384) ∧
      (seqGet s.txSeq apid = none → n = s.params.txseqFirst) ∧
      (tw = true ↔ shf = true ∧ s.params.shEnd ≤ t.len) ∧
      (tf = true ↔ shf = true ∧ t.len < s.params.shEnd) ∧
      (cf = true ↔ cki = true ∧ s.csr.ckSel = .sum ∧ t.len % 2 = 1) ∧
      (cw = true ↔ cki = true ∧ cf = false) ∧
      (cw = true →
        cksumOf s.csr.ckSel s.csr.crcIv (Memory.bytes t.buf 0 (t.len - 2)) = some ck) ∧
      (cw = false → ck = 0) ∧
      exec (.txproc fine coarse) s = .next t ∧
      { t with rsp := s.rsp, buf := s.buf, len := s.len, txSeq := s.txSeq, event := s.event
               tx := s.tx } = s ∧
      t.len = (txLengths s).2.2 ∧
      (∀ a, a < t.len → byteAt t a =
        if cw = true ∧ a = t.len - 2 then ck.toNat / 256
        else if cw = true ∧ a = t.len - 1 then ck.toNat % 256
        else txStampedByte s fine.toNat coarse.toNat n.toNat t.len tw a) ∧
      t.tx.flags.toNat = cki.toNat + 2 * cw.toNat + 4 * cf.toNat + 8 * shf.toNat + 16 * tw.toNat +
        32 * tf.toNat + (if (txLengths s).1 < (txLengths s).2.1 then 64 else 0) +
        (if (txLengths s).2.1 < t.len then 128 else 0) ∧
      t.tx.seq = n ∧ t.tx.ck = ck ∧ t.tx.apid = apid ∧
      t.rsp = some (BitVec.ofNat 64 (n.toNat * 65536 + t.tx.flags.toNat)) ∧
      t.event = (s.event ||| (if cf then 0x08 else 0) ||| (if tf then 0x10 else 0)) ∧
      seqGet t.txSeq apid = some n ∧ ∀ b, b ≠ apid → seqGet t.txSeq b = seqGet s.txSeq b

/-- A command without a secondary header that needs no padding and whose length field is right leaves
TXPROC byte-identical but for the sequence count, whose flags bits stay (R227). -/
def Obligations.TxprocKeepsPlainCommands : Prop :=
  ∀ (s : State) (fine : Byte) (coarse : Word),
    s.params.Legal → s.len ≤ s.params.bufsz → 7 ≤ s.len → ¬ PacketHasShf s →
    s.csr.txMin.toNat ≤ s.len → (s.csr.txCtl = 0 ∨ s.len % 2 = 0) →
    byteAt s 4 * 256 + byteAt s 5 = s.len - 7 →
    ∃ t, exec (.txproc fine coarse) s = .next t ∧ t.len = s.len ∧
      (∀ a, a < s.len → a ≠ 2 → a ≠ 3 → byteAt t a = byteAt s a) ∧
      byteAt t 2 / 64 = byteAt s 2 / 64 ∧ packetSeq t = t.tx.seq.toNat

/-- Loop-back: a command whose checksum TXPROC has written is found intact by RXPROC with the same
CKSEL and CRCIV, with the APID and count TXPROC published (R225, R226). -/
def Obligations.StampedCommandIsReceivedIntact : Prop :=
  ∀ (s t : State) (fine : Byte) (coarse : Word) (w : PortWord),
    StateInv s → exec (.txproc fine coarse) s = .next t → t.rsp = some w → errField w = 0 →
    t.tx.flags.getLsbD 1 = true → t.csr.rxMin.toNat ≤ t.len →
    ∃ u, exec .rxproc t = .next u ∧ u.rx.flags.getLsbD 1 = false ∧
      u.rx.flags.getLsbD 5 = false ∧
      u.rx.seqId.toNat = t.tx.apid.toNat * 65536 + t.tx.seq.toNat

/-! ## Errors, events, separation -/

/-- Every command is total: it leaves one next state with exactly one response, whose upper bits are 0,
whose error code is at most 8 and whose value is 0 on an error (60_exceptions.md R271, R260,
30_encoding.md R82). The last clause is the model's choice (logs 2, 3 and 5): every step, an idle one
too, answers a next state, and takes the head sample of the port where one is left. -/
def Obligations.EveryCommandAnswersOnce : Prop :=
  (∀ (i : Instr) (s : State), ∃ (t : State) (w : PortWord), exec i s = .next t ∧ t.rsp = some w ∧
    w.toNat < 2 ^ 40 ∧ errField w ≤ 8 ∧ (errField w ≠ 0 → valField w = 0)) ∧
  ∀ s : State, ∃ t, step s = .next t ∧ t.port = s.port.tail

/-- Errors are precise: a command that answers an error has changed nothing but EVENT.ERR, except that
FPUSH, FINIT and FEOF may have changed the framer, and then leave it in FAULT, OFF and OFF (R262,
R263). -/
def Obligations.ErrorsArePrecise : Prop :=
  ∀ (i : Instr) (s t : State) (w : PortWord),
    exec i s = .next t → t.rsp = some w → errField w ≠ 0 →
      { t with fr := s.fr } = failed (errField w) s ∧
      ((∀ b, i ≠ .fpush b) → i ≠ .finit → i ≠ .feof → t.fr = s.fr) ∧
      (∀ b, i = .fpush b → errField w = 8 ∧ t.fr = s.fr ∨ t.fr.fst = .fault) ∧
      (i = .finit → t.fr = { s.fr with fst := .off, fpos := 0, ftot := 0, flen := 0 }) ∧
      (i = .feof → errField w = 8 ∧ t.fr = s.fr ∨
        t.fr = { s.fr with fst := .off, fpos := 0, ftot := 0, flen := 0 })

/-- A command answers no error that R261 does not list for it. -/
def Obligations.OnlyListedErrorsAreRaised : Prop :=
  ∀ (i : Instr) (s t : State) (w : PortWord),
    StateInv s → exec i s = .next t → t.rsp = some w → errField w ≠ 0 → errField w ∈ mayRaise i

/-- Event flags are sticky: only SRST, and CSRW to EVENT with a 1 at its position, clears one
(10_state.md R25, R262). -/
def Obligations.EventFlagsAreSticky : Prop :=
  ∀ (i : Instr) (s t : State) (k : Nat),
    exec i s = .next t → s.event.getLsbD k = true → t.event.getLsbD k = false →
      i = .srst ∨ ∃ v, i = .csrw 0x18 v ∧ v.getLsbD k = true

/-- Each part of the state is reached only by the commands R60 and the unit rules name for it, and
nothing reaches the build parameters or what the host has still to present (20_memory.md R60,
43_framer.md R173; that those two are no state of the block, 00_scope.md R5 and 10_state.md R51). That
they are fields of the state, and that SRST keeps them, is the model's choice (logs 1, 2 and 13). -/
def Obligations.StateIsReachedOnlyByItsCommands : Prop :=
  ∀ (i : Instr) (s t : State), exec i s = .next t →
    t.params = s.params ∧ t.port = s.port ∧
    (t.rxSeq ≠ s.rxSeq → i = .srst ∨ i = .rxproc ∨ ∃ a q, i = .seqchk a q) ∧
    (t.txSeq ≠ s.txSeq → i = .srst ∨ (∃ f c, i = .txproc f c) ∨ ∃ a, i = .seqnext a) ∧
    (t.csr ≠ s.csr → i = .srst ∨ ∃ n v, i = .csrw n v) ∧
    (t.rx ≠ s.rx → i = .srst ∨ i = .rxproc) ∧
    (t.tx ≠ s.tx → i = .srst ∨ ∃ f c, i = .txproc f c) ∧
    (t.fr ≠ s.fr → i = .srst ∨ i = .finit ∨ i = .feof ∨ i = .ftake ∨ i = .frst ∨
      ∃ b, i = .fpush b) ∧
    (t.len ≠ s.len → i = .srst ∨ i = .ftake ∨ (∃ n, i = .setlen n) ∨ (∃ b, i = .appb b) ∨
      ∃ f c, i = .txproc f c) ∧
    (i = .finit ∨ i = .feof ∨ i = .frst ∨ i = .rxproc ∨ (∃ b, i = .fpush b) ∨
      (∃ n v, i = .csrw n v) ∨ (∃ a q, i = .seqchk a q) ∨ (∃ a, i = .seqnext a) → t.buf = s.buf)

/-- The reading commands change nothing but the response and, when they raise, EVENT.ERR, and asked
again they answer the same (20_memory.md R67). -/
def Obligations.ReadingCommandsAreIdempotent : Prop :=
  ∀ (i : Instr) (s t : State),
    ((∃ n, i = .csrr n) ∨ i = .rdlen ∨ (∃ a, i = .rdb a) ∨ (∃ a n, i = .sum16 a n) ∨
      (∃ a n, i = .crc16 a n) ∨ (∃ a n, i = .flet16 a n) ∨ (∃ a n, i = .cksum a n) ∨
      (∃ a, i = .seqget a) ∨ (∃ a, i = .txseqget a) ∨
      i ∈ [Instr.gver, .gtype, .gshf, .gapid, .gseqf, .gseq, .glenf, .gplen, .gcoarse, .gfine,
        .gcki]) →
    exec i s = .next t →
      { t with rsp := s.rsp, event := s.event } = s ∧
      (t.event = s.event ∨ t.event = s.event ||| 0x80) ∧
      ∃ u, exec i t = .next u ∧ u = t

/-! ## Invariant -/

/-- The invariant of the block's states holds after reset, for every legal build (10_state.md R52).
R52 leaves the content of the buffers and of invalid table entries open: that nothing is listed there,
and so the canonical forms hold, is the model's choice (logs 6, 7 and 8). -/
def Obligations.ResetMeetsTheInvariant : Prop :=
  ∀ p : Params, p.Legal → StateInv (State.resetWith p)

/-- Every step keeps the invariant of the block's states: canonical buffers within LEN and BUFSZ, legal
register values, a coherent framer, tables indexed by APIDs, reserved event bits 0. That buffers and
tables are held in one canonical form is the model's choice (logs 6, 7 and 8). -/
def Obligations.EveryStepKeepsTheInvariant : Prop :=
  ∀ s t : State, StateInv s → step s = .next t → StateInv t
end

