-- ==== Sys2Proof/Laws/Sparse.lean ====
section
/-! SUPPORT. What the sparse maps can do: each operation through `sparseGet`, and that each keeps the
strictly rising order. -/

namespace Sys2Proof.Machine

variable {α : Type}

@[simp] theorem sparseGet_nil (a : Nat) : sparseGet ([] : List (Nat × α)) a = none := rfl

theorem sparseGet_cons (k : Nat) (v : α) (m : List (Nat × α)) (a : Nat) :
    sparseGet ((k, v) :: m) a = if k = a then some v else sparseGet m a := rfl

theorem sparseGet_filter (m : List (Nat × α)) (p : Nat → Bool) (a : Nat) :
    sparseGet (m.filter fun c => p c.1) a = if p a then sparseGet m a else none := by
  induction m with
  | nil => simp
  | cons c m ih =>
    obtain ⟨k, v⟩ := c
    by_cases hk : k = a
    · subst hk
      cases hp : p k <;> simp [hp, sparseGet_cons, ih]
    · cases hp : p k <;> simp [hp, sparseGet_cons, hk, ih]

theorem sparseGet_del (m : List (Nat × α)) (a b : Nat) :
    sparseGet (sparseDel m a) b = if b = a then none else sparseGet m b := by
  unfold sparseDel
  rw [sparseGet_filter m (fun k => !(k == a)) b]
  by_cases h : b = a <;> simp [h]

theorem sparseGet_ins (m : List (Nat × α)) (a : Nat) (v : α) (hm : sparseGet m a = none) (b : Nat) :
    sparseGet (sparseIns m a v) b = if b = a then some v else sparseGet m b := by
  induction m with
  | nil => simp [sparseIns, sparseGet_cons, eq_comm]
  | cons c m ih =>
    obtain ⟨k, w⟩ := c
    have hk : k ≠ a := by
      intro h
      simp [sparseGet_cons, h] at hm
    have hm' : sparseGet m a = none := by simpa [sparseGet_cons, hk] using hm
    unfold sparseIns
    split
    · simp [sparseGet_cons, eq_comm]
    · by_cases hb : b = a
      · subst hb
        simp [sparseGet_cons, hk, ih hm']
      · simp [sparseGet_cons, hb, ih hm']

theorem sparseGet_set (m : List (Nat × α)) (a : Nat) (v : α) (b : Nat) :
    sparseGet (sparseSet m a v) b = if b = a then some v else sparseGet m b := by
  unfold sparseSet
  rw [sparseGet_ins _ _ _ (by simp [sparseGet_del]), sparseGet_del]
  by_cases h : b = a <;> simp [h]

theorem sparseGet_below (m : List (Nat × α)) (n b : Nat) :
    sparseGet (sparseBelow m n) b = if b < n then sparseGet m b else none := by
  unfold sparseBelow
  rw [sparseGet_filter m (fun k => decide (k < n)) b]
  by_cases h : b < n <;> simp [h]

theorem mem_sparseIns (m : List (Nat × α)) (a : Nat) (v : α) (c : Nat × α) :
    c ∈ sparseIns m a v ↔ c = (a, v) ∨ c ∈ m := by
  induction m with
  | nil => simp [sparseIns]
  | cons d m ih =>
    obtain ⟨k, w⟩ := d
    unfold sparseIns
    split
    · simp
    · simp only [List.mem_cons, ih]
      tauto

theorem mem_sparseDel (m : List (Nat × α)) (a : Nat) (c : Nat × α) :
    c ∈ sparseDel m a ↔ c ∈ m ∧ c.1 ≠ a := by
  simp [sparseDel]

theorem mem_sparseSet (m : List (Nat × α)) (a : Nat) (v : α) (c : Nat × α) :
    c ∈ sparseSet m a v ↔ c = (a, v) ∨ (c ∈ m ∧ c.1 ≠ a) := by
  simp [sparseSet, mem_sparseIns, mem_sparseDel]

theorem mem_sparseBelow (m : List (Nat × α)) (n : Nat) (c : Nat × α) :
    c ∈ sparseBelow m n ↔ c ∈ m ∧ c.1 < n := by
  simp [sparseBelow]

theorem sparseSorted_cons (k : Nat) (v : α) (m : List (Nat × α)) :
    sparseSorted ((k, v) :: m) = true ↔ (∀ c ∈ m, k < c.1) ∧ sparseSorted m = true := by
  simp [sparseSorted]

theorem sparseSorted_filter (m : List (Nat × α)) (p : Nat × α → Bool) (h : sparseSorted m = true) :
    sparseSorted (m.filter p) = true := by
  induction m with
  | nil => simpa using h
  | cons c m ih =>
    obtain ⟨k, v⟩ := c
    rw [sparseSorted_cons] at h
    rw [List.filter_cons]
    split
    · exact (sparseSorted_cons ..).2 ⟨fun c hc => h.1 c (List.mem_filter.1 hc).1, ih h.2⟩
    · exact ih h.2

theorem sparseSorted_ins (m : List (Nat × α)) (a : Nat) (v : α) (h : sparseSorted m = true)
    (hne : ∀ c ∈ m, c.1 ≠ a) : sparseSorted (sparseIns m a v) = true := by
  induction m with
  | nil => simp [sparseIns, sparseSorted]
  | cons c m ih =>
    obtain ⟨k, w⟩ := c
    have hs := (sparseSorted_cons ..).1 h
    have hk : k ≠ a := hne (k, w) (by simp)
    unfold sparseIns
    split
    · rename_i hlt
      refine (sparseSorted_cons ..).2 ⟨fun c hc => ?_, h⟩
      rcases List.mem_cons.1 hc with rfl | hc
      · exact hlt
      · exact hlt.trans (hs.1 c hc)
    · rename_i hlt
      refine (sparseSorted_cons ..).2 ⟨fun c hc => ?_, ih hs.2 fun c hc => hne c (by simp [hc])⟩
      rcases (mem_sparseIns ..).1 hc with rfl | hc
      · exact lt_of_le_of_ne (not_lt.1 hlt) hk
      · exact hs.1 c hc

theorem sparseSorted_del (m : List (Nat × α)) (a : Nat) (h : sparseSorted m = true) :
    sparseSorted (sparseDel m a) = true := sparseSorted_filter m _ h

theorem sparseSorted_set (m : List (Nat × α)) (a : Nat) (v : α) (h : sparseSorted m = true) :
    sparseSorted (sparseSet m a v) = true :=
  sparseSorted_ins _ _ _ (sparseSorted_del m a h) fun _ hc => ((mem_sparseDel ..).1 hc).2

theorem sparseSorted_below (m : List (Nat × α)) (n : Nat) (h : sparseSorted m = true) :
    sparseSorted (sparseBelow m n) = true := sparseSorted_filter m _ h

end Sys2Proof.Machine
end

