-- ==== Sys2Proof/Laws/Memory.lean ====
section
/-! SUPPORT. What the memory operations can do: reading after each of them, and that each keeps the
canonical form `Memory.wf`. -/

namespace Sys2Proof.Machine

/-- A slice of a slice is a slice of the whole. -/
theorem slice_of_slice {w : Nat} (v : BitVec w) (a n b k : Nat) (h : b + k ≤ n) :
    (v.extractLsb' a n).extractLsb' b k = v.extractLsb' (a + b) k := by
  apply BitVec.eq_of_getLsbD_eq
  intro i hi
  have h1 : b + i < n := by omega
  simp [BitVec.getLsbD_extractLsb', h1, Nat.add_assoc]

/-- The two halves of a 16-bit number put together again. -/
theorem half_of_bytes (v : Half) : v.extractLsb' 8 8 ++ v.extractLsb' 0 8 = v := by
  apply BitVec.eq_of_getLsbD_eq
  intro i hi
  simp only [BitVec.getLsbD_append, BitVec.getLsbD_extractLsb']
  split
  · simp_all
  · have h1 : i - 8 < 8 := by omega
    have h2 : 8 + (i - 8) = i := by omega
    simp [h1, h2]

@[simp] theorem memory_read_nil (a : Nat) : Memory.read [] a = 0 := rfl

theorem memory_read_write (m : Memory) (a : Nat) (v : Byte) (b : Nat) :
    Memory.read (Memory.write m a v) b = if b = a then v else Memory.read m b := by
  unfold Memory.read Memory.write
  split
  · rename_i hv
    rw [sparseGet_del]
    by_cases h : b = a <;> simp [h, hv]
  · rw [sparseGet_set]
    by_cases h : b = a <;> simp [h]

@[simp] theorem memory_read_write_same (m : Memory) (a : Nat) (v : Byte) :
    Memory.read (Memory.write m a v) a = v := by simp [memory_read_write]

theorem memory_read_write_other (m : Memory) (a : Nat) (v : Byte) (b : Nat) (h : b ≠ a) :
    Memory.read (Memory.write m a v) b = Memory.read m b := by simp [memory_read_write, h]

theorem memory_read_below (m : Memory) (n b : Nat) :
    Memory.read (Memory.below m n) b = if b < n then Memory.read m b else 0 := by
  unfold Memory.read Memory.below
  rw [sparseGet_below]
  by_cases h : b < n <;> simp [h]

theorem memory_read_write2 (m : Memory) (a : Nat) (v : Half) (b : Nat) :
    Memory.read (Memory.write2 m a v) b =
      if b = a then v.extractLsb' 8 8 else if b = a + 1 then v.extractLsb' 0 8
      else Memory.read m b := by
  unfold Memory.write2
  rw [memory_read_write, memory_read_write]
  by_cases h : b = a
  · simp [h]
  · simp [h]

theorem memory_read_write4 (m : Memory) (a : Nat) (v : Word) (b : Nat) :
    Memory.read (Memory.write4 m a v) b =
      if b = a then v.extractLsb' 24 8 else if b = a + 1 then v.extractLsb' 16 8
      else if b = a + 2 then v.extractLsb' 8 8 else if b = a + 3 then v.extractLsb' 0 8
      else Memory.read m b := by
  unfold Memory.write4
  rw [memory_read_write2, memory_read_write2]
  simp only [slice_of_slice v 16 16 8 8 (by omega), slice_of_slice v 16 16 0 8 (by omega),
    slice_of_slice v 0 16 8 8 (by omega), slice_of_slice v 0 16 0 8 (by omega)]
  split_ifs <;> first | rfl | omega

/-- What was stored big-endian is read back (20_memory.md R61, R62). -/
theorem memory_read2_write2 (m : Memory) (a : Nat) (v : Half) :
    Memory.read2 (Memory.write2 m a v) a = v := by
  unfold Memory.read2
  rw [memory_read_write2, memory_read_write2]
  simp [half_of_bytes]

@[simp] theorem memory_bytes_length (m : Memory) (off n : Nat) :
    (Memory.bytes m off n).length = n := by
  induction n generalizing off with
  | zero => rfl
  | succ n ih => simp [Memory.bytes, ih]

theorem memory_bytes_get (m : Memory) (off n k : Nat) (h : k < n) :
    (Memory.bytes m off n)[k]'(by simpa using h) = Memory.read m (off + k) := by
  induction n generalizing off k with
  | zero => omega
  | succ n ih =>
    cases k with
    | zero => simp [Memory.bytes]
    | succ k =>
      simp only [Memory.bytes, List.getElem_cons_succ]
      rw [ih (off + 1) k (by omega)]
      congr 1
      omega

/-- A range split in two (41_checksum.md R105). -/
theorem memory_bytes_add (m : Memory) (off n k : Nat) :
    Memory.bytes m off (n + k) = Memory.bytes m off n ++ Memory.bytes m (off + n) k := by
  induction n generalizing off with
  | zero => simp [Memory.bytes]
  | succ n ih =>
    rw [Nat.succ_add, Memory.bytes, Memory.bytes, ih, Nat.add_assoc, Nat.add_comm 1 n]
    rfl

/-- Two memories that read alike over a range have the same bytes there. -/
theorem memory_bytes_congr (m m' : Memory) (off n : Nat)
    (h : ∀ k, k < n → Memory.read m (off + k) = Memory.read m' (off + k)) :
    Memory.bytes m off n = Memory.bytes m' off n := by
  apply List.ext_getElem
  · simp
  · intro k h1 _
    have hk : k < n := by simpa using h1
    rw [memory_bytes_get _ _ _ _ hk, memory_bytes_get _ _ _ _ hk, h k hk]

theorem memory_wf_iff (m : Memory) :
    Memory.wf m = true ↔ sparseSorted m = true ∧ ∀ c ∈ m, c.2 ≠ 0 := by
  simp [Memory.wf]

theorem memory_wf_nil : Memory.wf [] = true := rfl

theorem memory_wf_write (m : Memory) (a : Nat) (v : Byte) (h : Memory.wf m = true) :
    Memory.wf (Memory.write m a v) = true := by
  rw [memory_wf_iff] at h ⊢
  unfold Memory.write
  split
  · exact ⟨sparseSorted_del m a h.1, fun c hc => h.2 c ((mem_sparseDel ..).1 hc).1⟩
  · rename_i hv
    refine ⟨sparseSorted_set m a v h.1, fun c hc => ?_⟩
    rcases (mem_sparseSet ..).1 hc with rfl | hc
    · exact hv
    · exact h.2 c hc.1

theorem memory_wf_below (m : Memory) (n : Nat) (h : Memory.wf m = true) :
    Memory.wf (Memory.below m n) = true := by
  rw [memory_wf_iff] at h ⊢
  exact ⟨sparseSorted_below m n h.1, fun c hc => h.2 c ((mem_sparseBelow ..).1 hc).1⟩

theorem memory_wf_write2 (m : Memory) (a : Nat) (v : Half) (h : Memory.wf m = true) :
    Memory.wf (Memory.write2 m a v) = true := memory_wf_write _ _ _ (memory_wf_write _ _ _ h)

theorem memory_wf_write4 (m : Memory) (a : Nat) (v : Word) (h : Memory.wf m = true) :
    Memory.wf (Memory.write4 m a v) = true := memory_wf_write2 _ _ _ (memory_wf_write2 _ _ _ h)

/-- Where the listed addresses of a memory lie. -/
def MemoryWithin (m : Memory) (n : Nat) : Prop := ∀ c ∈ m, c.1 < n

theorem memoryWithin_mono {m : Memory} {n k : Nat} (h : MemoryWithin m n) (hk : n ≤ k) :
    MemoryWithin m k := fun c hc => lt_of_lt_of_le (h c hc) hk

theorem memoryWithin_write {m : Memory} {n a : Nat} {v : Byte} (h : MemoryWithin m n) (ha : a < n) :
    MemoryWithin (Memory.write m a v) n := by
  intro c hc
  unfold Memory.write at hc
  split at hc
  · exact h c ((mem_sparseDel ..).1 hc).1
  · rcases (mem_sparseSet ..).1 hc with rfl | hc
    · exact ha
    · exact h c hc.1

theorem memoryWithin_below (m : Memory) (n : Nat) : MemoryWithin (Memory.below m n) n :=
  fun _ hc => ((mem_sparseBelow ..).1 hc).2

theorem memoryWithin_write2 {m : Memory} {n a : Nat} {v : Half} (h : MemoryWithin m n)
    (ha : a + 1 < n) : MemoryWithin (Memory.write2 m a v) n :=
  memoryWithin_write (memoryWithin_write h (by omega)) ha

theorem memoryWithin_write4 {m : Memory} {n a : Nat} {v : Word} (h : MemoryWithin m n)
    (ha : a + 3 < n) : MemoryWithin (Memory.write4 m a v) n :=
  memoryWithin_write2 (memoryWithin_write2 h (by omega)) (by omega)

end Sys2Proof.Machine
end

