-- ==== Sys2Proof/Laws/State.lean ====
section
/-! SUPPORT. One lemma per field of the state per named update, each true by rfl, so that no later
proof unfolds a record update. -/

namespace Sys2Proof.Machine

@[simp] theorem answered_params (v : Word) (s : State) : (answered v s).params = s.params := rfl
@[simp] theorem answered_port (v : Word) (s : State) : (answered v s).port = s.port := rfl
@[simp] theorem answered_rsp (v : Word) (s : State) :
    (answered v s).rsp = some (v.setWidth 64) := rfl
@[simp] theorem answered_buf (v : Word) (s : State) : (answered v s).buf = s.buf := rfl
@[simp] theorem answered_len (v : Word) (s : State) : (answered v s).len = s.len := rfl
@[simp] theorem answered_fr (v : Word) (s : State) : (answered v s).fr = s.fr := rfl
@[simp] theorem answered_rxSeq (v : Word) (s : State) : (answered v s).rxSeq = s.rxSeq := rfl
@[simp] theorem answered_txSeq (v : Word) (s : State) : (answered v s).txSeq = s.txSeq := rfl
@[simp] theorem answered_event (v : Word) (s : State) : (answered v s).event = s.event := rfl
@[simp] theorem answered_rx (v : Word) (s : State) : (answered v s).rx = s.rx := rfl
@[simp] theorem answered_tx (v : Word) (s : State) : (answered v s).tx = s.tx := rfl
@[simp] theorem answered_csr (v : Word) (s : State) : (answered v s).csr = s.csr := rfl

@[simp] theorem failed_params (code : Nat) (s : State) : (failed code s).params = s.params := rfl
@[simp] theorem failed_port (code : Nat) (s : State) : (failed code s).port = s.port := rfl
@[simp] theorem failed_rsp (code : Nat) (s : State) :
    (failed code s).rsp = some (BitVec.ofNat 64 (code * 2 ^ 32)) := rfl
@[simp] theorem failed_buf (code : Nat) (s : State) : (failed code s).buf = s.buf := rfl
@[simp] theorem failed_len (code : Nat) (s : State) : (failed code s).len = s.len := rfl
@[simp] theorem failed_fr (code : Nat) (s : State) : (failed code s).fr = s.fr := rfl
@[simp] theorem failed_rxSeq (code : Nat) (s : State) : (failed code s).rxSeq = s.rxSeq := rfl
@[simp] theorem failed_txSeq (code : Nat) (s : State) : (failed code s).txSeq = s.txSeq := rfl
@[simp] theorem failed_event (code : Nat) (s : State) :
    (failed code s).event = s.event ||| 0x80 := rfl
@[simp] theorem failed_rx (code : Nat) (s : State) : (failed code s).rx = s.rx := rfl
@[simp] theorem failed_tx (code : Nat) (s : State) : (failed code s).tx = s.tx := rfl
@[simp] theorem failed_csr (code : Nat) (s : State) : (failed code s).csr = s.csr := rfl

@[simp] theorem portTaken_params (s : State) : (portTaken s).params = s.params := rfl
@[simp] theorem portTaken_port (s : State) : (portTaken s).port = s.port.tail := rfl
@[simp] theorem portTaken_rsp (s : State) : (portTaken s).rsp = s.rsp := rfl
@[simp] theorem portTaken_buf (s : State) : (portTaken s).buf = s.buf := rfl
@[simp] theorem portTaken_len (s : State) : (portTaken s).len = s.len := rfl
@[simp] theorem portTaken_fr (s : State) : (portTaken s).fr = s.fr := rfl
@[simp] theorem portTaken_rxSeq (s : State) : (portTaken s).rxSeq = s.rxSeq := rfl
@[simp] theorem portTaken_txSeq (s : State) : (portTaken s).txSeq = s.txSeq := rfl
@[simp] theorem portTaken_event (s : State) : (portTaken s).event = s.event := rfl
@[simp] theorem portTaken_rx (s : State) : (portTaken s).rx = s.rx := rfl
@[simp] theorem portTaken_tx (s : State) : (portTaken s).tx = s.tx := rfl
@[simp] theorem portTaken_csr (s : State) : (portTaken s).csr = s.csr := rfl

@[simp] theorem setLength_params (s : State) (n : Nat) : (setLength s n).params = s.params := rfl
@[simp] theorem setLength_port (s : State) (n : Nat) : (setLength s n).port = s.port := rfl
@[simp] theorem setLength_rsp (s : State) (n : Nat) : (setLength s n).rsp = s.rsp := rfl
@[simp] theorem setLength_buf (s : State) (n : Nat) : (setLength s n).buf = Memory.below s.buf (min s.len n) := rfl
@[simp] theorem setLength_len (s : State) (n : Nat) : (setLength s n).len = n := rfl
@[simp] theorem setLength_fr (s : State) (n : Nat) : (setLength s n).fr = s.fr := rfl
@[simp] theorem setLength_rxSeq (s : State) (n : Nat) : (setLength s n).rxSeq = s.rxSeq := rfl
@[simp] theorem setLength_txSeq (s : State) (n : Nat) : (setLength s n).txSeq = s.txSeq := rfl
@[simp] theorem setLength_event (s : State) (n : Nat) : (setLength s n).event = s.event := rfl
@[simp] theorem setLength_rx (s : State) (n : Nat) : (setLength s n).rx = s.rx := rfl
@[simp] theorem setLength_tx (s : State) (n : Nat) : (setLength s n).tx = s.tx := rfl
@[simp] theorem setLength_csr (s : State) (n : Nat) : (setLength s n).csr = s.csr := rfl

@[simp] theorem resetState_params (s : State) : (resetState s).params = s.params := rfl
@[simp] theorem resetState_port (s : State) : (resetState s).port = s.port := rfl
@[simp] theorem resetState_rsp (s : State) : (resetState s).rsp = none := rfl
@[simp] theorem resetState_buf (s : State) : (resetState s).buf = [] := rfl
@[simp] theorem resetState_len (s : State) : (resetState s).len = 0 := rfl
@[simp] theorem resetState_fr (s : State) : (resetState s).fr = Framer.atReset := rfl
@[simp] theorem resetState_rxSeq (s : State) : (resetState s).rxSeq = [] := rfl
@[simp] theorem resetState_txSeq (s : State) : (resetState s).txSeq = [] := rfl
@[simp] theorem resetState_event (s : State) : (resetState s).event = 0 := rfl
@[simp] theorem resetState_rx (s : State) : (resetState s).rx = ⟨0, 0, 0, 0⟩ := rfl
@[simp] theorem resetState_tx (s : State) : (resetState s).tx = ⟨0, 0, 0, 0⟩ := rfl
@[simp] theorem resetState_csr (s : State) : (resetState s).csr = Csr.atReset s.params := rfl

@[simp] theorem rxDrop_params (s : State) : (rxDrop s).params = s.params := rfl
@[simp] theorem rxDrop_port (s : State) : (rxDrop s).port = s.port := rfl
@[simp] theorem rxDrop_rsp (s : State) : (rxDrop s).rsp = s.rsp := rfl
@[simp] theorem rxDrop_buf (s : State) : (rxDrop s).buf = s.buf := rfl
@[simp] theorem rxDrop_len (s : State) : (rxDrop s).len = s.len := rfl
@[simp] theorem rxDrop_fr (s : State) : (rxDrop s).fr = s.fr := rfl
@[simp] theorem rxDrop_rxSeq (s : State) : (rxDrop s).rxSeq = s.rxSeq := rfl
@[simp] theorem rxDrop_txSeq (s : State) : (rxDrop s).txSeq = s.txSeq := rfl
@[simp] theorem rxDrop_event (s : State) :
    (rxDrop s).event = setEvent true evTooShort s.event := rfl
@[simp] theorem rxDrop_rx (s : State) : (rxDrop s).rx = { s.rx with flags := rxFlagsDrop } := rfl
@[simp] theorem rxDrop_tx (s : State) : (rxDrop s).tx = s.tx := rfl
@[simp] theorem rxDrop_csr (s : State) : (rxDrop s).csr = s.csr := rfl

@[simp] theorem rxFinish_params (s : State) (w0 w1 : Half) (coarse : Word) (fine : Byte) :
    (rxFinish s w0 w1 coarse fine).params = s.params := rfl
@[simp] theorem rxFinish_port (s : State) (w0 w1 : Half) (coarse : Word) (fine : Byte) :
    (rxFinish s w0 w1 coarse fine).port = s.port := rfl
@[simp] theorem rxFinish_rsp (s : State) (w0 w1 : Half) (coarse : Word) (fine : Byte) :
    (rxFinish s w0 w1 coarse fine).rsp = s.rsp := rfl
@[simp] theorem rxFinish_buf (s : State) (w0 w1 : Half) (coarse : Word) (fine : Byte) :
    (rxFinish s w0 w1 coarse fine).buf = s.buf := rfl
@[simp] theorem rxFinish_len (s : State) (w0 w1 : Half) (coarse : Word) (fine : Byte) :
    (rxFinish s w0 w1 coarse fine).len = s.len := rfl
@[simp] theorem rxFinish_fr (s : State) (w0 w1 : Half) (coarse : Word) (fine : Byte) :
    (rxFinish s w0 w1 coarse fine).fr = s.fr := rfl
@[simp] theorem rxFinish_rxSeq (s : State) (w0 w1 : Half) (coarse : Word) (fine : Byte) :
    (rxFinish s w0 w1 coarse fine).rxSeq = seqSet s.rxSeq (hdrApid w0) (hdrSeqCount w1) := rfl
@[simp] theorem rxFinish_txSeq (s : State) (w0 w1 : Half) (coarse : Word) (fine : Byte) :
    (rxFinish s w0 w1 coarse fine).txSeq = s.txSeq := rfl
@[simp] theorem rxFinish_tx (s : State) (w0 w1 : Half) (coarse : Word) (fine : Byte) :
    (rxFinish s w0 w1 coarse fine).tx = s.tx := rfl
@[simp] theorem rxFinish_csr (s : State) (w0 w1 : Half) (coarse : Word) (fine : Byte) :
    (rxFinish s w0 w1 coarse fine).csr = s.csr := rfl

@[simp] theorem txFinish_params (fine : Byte) (coarse : Word) (s : State) :
    (txFinish fine coarse s).params = s.params := rfl
@[simp] theorem txFinish_port (fine : Byte) (coarse : Word) (s : State) :
    (txFinish fine coarse s).port = s.port := rfl
@[simp] theorem txFinish_rsp (fine : Byte) (coarse : Word) (s : State) :
    (txFinish fine coarse s).rsp = s.rsp := rfl
@[simp] theorem txFinish_buf (fine : Byte) (coarse : Word) (s : State) :
    (txFinish fine coarse s).buf = txPacket fine coarse s := rfl
@[simp] theorem txFinish_len (fine : Byte) (coarse : Word) (s : State) :
    (txFinish fine coarse s).len = txLen3 s := rfl
@[simp] theorem txFinish_fr (fine : Byte) (coarse : Word) (s : State) :
    (txFinish fine coarse s).fr = s.fr := rfl
@[simp] theorem txFinish_rxSeq (fine : Byte) (coarse : Word) (s : State) :
    (txFinish fine coarse s).rxSeq = s.rxSeq := rfl
@[simp] theorem txFinish_txSeq (fine : Byte) (coarse : Word) (s : State) :
    (txFinish fine coarse s).txSeq = seqSet s.txSeq (txApid s) (txSeqCount s) := rfl
@[simp] theorem txFinish_rx (fine : Byte) (coarse : Word) (s : State) :
    (txFinish fine coarse s).rx = s.rx := rfl
@[simp] theorem txFinish_csr (fine : Byte) (coarse : Word) (s : State) :
    (txFinish fine coarse s).csr = s.csr := rfl

@[simp] theorem framerOff_fst (f : Framer) : (framerOff f).fst = .off := rfl
@[simp] theorem framerOff_fpos (f : Framer) : (framerOff f).fpos = 0 := rfl
@[simp] theorem framerOff_ftot (f : Framer) : (framerOff f).ftot = 0 := rfl
@[simp] theorem framerOff_flen (f : Framer) : (framerOff f).flen = 0 := rfl
@[simp] theorem framerOff_fbuf (f : Framer) : (framerOff f).fbuf = f.fbuf := rfl
@[simp] theorem framerOff_fhdr (f : Framer) : (framerOff f).fhdr = f.fhdr := rfl
@[simp] theorem framerOff_cfg (f : Framer) : (framerOff f).cfg = f.cfg := rfl

@[simp] theorem framerConsume_fst (byte : Byte) (f : Framer) :
    (framerConsume byte f).fst = f.fst := rfl
@[simp] theorem framerConsume_fpos (byte : Byte) (f : Framer) :
    (framerConsume byte f).fpos = f.fpos + 1 := rfl
@[simp] theorem framerConsume_ftot (byte : Byte) (f : Framer) :
    (framerConsume byte f).ftot = f.ftot := rfl
@[simp] theorem framerConsume_flen (byte : Byte) (f : Framer) :
    (framerConsume byte f).flen = if f.cfg.strip.toNat ≤ f.fpos then f.flen + 1 else f.flen := rfl
@[simp] theorem framerConsume_fbuf (byte : Byte) (f : Framer) :
    (framerConsume byte f).fbuf = if f.cfg.strip.toNat ≤ f.fpos then Memory.write f.fbuf f.flen byte else f.fbuf := rfl
@[simp] theorem framerConsume_fhdr (byte : Byte) (f : Framer) :
    (framerConsume byte f).fhdr = if f.fpos < f.cfg.e then Memory.write f.fhdr f.fpos byte else f.fhdr := rfl
@[simp] theorem framerConsume_cfg (byte : Byte) (f : Framer) :
    (framerConsume byte f).cfg = f.cfg := rfl

@[simp] theorem framerRestart_fbuf (f : Framer) : (framerRestart f).fbuf = f.fbuf := by
  unfold framerRestart; split <;> rfl
@[simp] theorem framerRestart_fhdr (f : Framer) : (framerRestart f).fhdr = f.fhdr := by
  unfold framerRestart; split <;> rfl
@[simp] theorem framerRestart_cfg (f : Framer) : (framerRestart f).cfg = f.cfg := by
  unfold framerRestart; split <;> rfl
@[simp] theorem framerRestart_fpos (f : Framer) : (framerRestart f).fpos = 0 := by
  unfold framerRestart; split <;> rfl
@[simp] theorem framerRestart_flen (f : Framer) : (framerRestart f).flen = 0 := by
  unfold framerRestart; split <;> rfl

theorem framerRestart_fixed (f : Framer) (h : f.cfg.mode = .fixed) :
    (framerRestart f).fst = .body ∧ (framerRestart f).ftot = f.cfg.pktSize.toNat := by
  simp [framerRestart, h]

theorem framerRestart_other (f : Framer) (h : f.cfg.mode ≠ .fixed) :
    (framerRestart f).fst = .header ∧ (framerRestart f).ftot = 0 := by
  simp [framerRestart, h]

end Sys2Proof.Machine
end

