-- ==== Sys2Proof/Laws/Ops.lean ====
section
/-! SUPPORT. One lemma per shared operation that says once everything it can do. -/

namespace Sys2Proof.Machine

/-- The response of a success (30_encoding.md R82). -/
theorem rspWord_ok (v : Word) : rspWord 0 v = v.setWidth 64 := by
  apply BitVec.eq_of_getLsbD_eq
  intro i hi
  simp only [rspWord, BitVec.getLsbD_append, BitVec.getLsbD_setWidth]
  by_cases h : i < 32
  · simp [h, hi]
  · simp [h, BitVec.getLsbD_of_ge v i (by omega)]

/-- The response of an error (R82, R260). -/
theorem rspWord_err (e : ErrCode) : rspWord (errCode e) 0 = BitVec.ofNat 64 ((errCode e).toNat * 2 ^ 32) := by
  cases e <;> rfl

/-- A successful command's next state. -/
theorem respond_eq (v : Word) (s : State) : respond v s = .next (answered v s) := by
  unfold respond answered
  rw [rspWord_ok]

/-- An error's next state (60_exceptions.md R262, R263). -/
theorem raise_eq (e : ErrCode) (s : State) : raise e s = .next (failed (errCode e).toNat s) := by
  unfold raise failed
  rw [rspWord_err]
  rfl

@[simp] theorem finishRead_ok (v : Word) (s : State) :
    finishRead (.ok v) s = .next (answered v s) := respond_eq v s

@[simp] theorem finishRead_error (e : ErrCode) (s : State) :
    finishRead (.error e) s = .next (failed (errCode e).toNat s) := raise_eq e s

@[simp] theorem finishWrite_ok (t s : State) : finishWrite (.ok t) s = .next (answered 0 t) :=
  respond_eq 0 t

@[simp] theorem finishWrite_error (e : ErrCode) (s : State) :
    finishWrite (.error e) s = .next (failed (errCode e).toNat s) := raise_eq e s

/-- Everything a reading command's end can be. -/
theorem finishRead_cases (r : Except ErrCode Word) (s : State) :
    (∃ v, r = .ok v ∧ finishRead r s = .next (answered v s)) ∨
      ∃ e, r = .error e ∧ finishRead r s = .next (failed (errCode e).toNat s) := by
  cases r with
  | ok v => exact .inl ⟨v, rfl, by simp⟩
  | error e => exact .inr ⟨e, rfl, by simp⟩

/-- Everything a writing command's end can be. -/
theorem finishWrite_cases (r : Except ErrCode State) (s : State) :
    (∃ t, r = .ok t ∧ finishWrite r s = .next (answered 0 t)) ∨
      ∃ e, r = .error e ∧ finishWrite r s = .next (failed (errCode e).toNat s) := by
  cases r with
  | ok t => exact .inl ⟨t, rfl, by simp⟩
  | error e => exact .inr ⟨e, rfl, by simp⟩

theorem memRead1_ok {s : State} {a : Nat} (h : a + 1 ≤ s.len) :
    memRead1 s a = .ok (Memory.read s.buf a) := if_pos h

theorem memRead1_error {s : State} {a : Nat} (h : s.len < a + 1) :
    memRead1 s a = .error .bounds := if_neg (by omega)

theorem memRead2_ok {s : State} {a : Nat} (h : a + 2 ≤ s.len) :
    memRead2 s a = .ok (Memory.read2 s.buf a) := if_pos h

theorem memRead2_error {s : State} {a : Nat} (h : s.len < a + 2) :
    memRead2 s a = .error .bounds := if_neg (by omega)

theorem memRead4_ok {s : State} {a : Nat} (h : a + 4 ≤ s.len) :
    memRead4 s a = .ok (Memory.read4 s.buf a) := if_pos h

theorem memRead4_error {s : State} {a : Nat} (h : s.len < a + 4) :
    memRead4 s a = .error .bounds := if_neg (by omega)

theorem memWrite1_ok {s : State} {a : Nat} (v : Byte) (h : a + 1 ≤ s.len) :
    memWrite1 s a v = .ok { s with buf := Memory.write s.buf a v } := if_pos h

theorem memWrite1_error {s : State} {a : Nat} (v : Byte) (h : s.len < a + 1) :
    memWrite1 s a v = .error .bounds := if_neg (by omega)

theorem memWrite2_ok {s : State} {a : Nat} (v : Half) (h : a + 2 ≤ s.len) :
    memWrite2 s a v = .ok { s with buf := Memory.write2 s.buf a v } := if_pos h

theorem memWrite2_error {s : State} {a : Nat} (v : Half) (h : s.len < a + 2) :
    memWrite2 s a v = .error .bounds := if_neg (by omega)

theorem memWrite4_ok {s : State} {a : Nat} (v : Word) (h : a + 4 ≤ s.len) :
    memWrite4 s a v = .ok { s with buf := Memory.write4 s.buf a v } := if_pos h

theorem memWrite4_error {s : State} {a : Nat} (v : Word) (h : s.len < a + 4) :
    memWrite4 s a v = .error .bounds := if_neg (by omega)

theorem memUpdate1_ok {s : State} {a : Nat} (f : Byte → Byte) (h : a + 1 ≤ s.len) :
    memUpdate1 s a f = .ok { s with buf := Memory.write s.buf a (f (Memory.read s.buf a)) } := by
  simp [memUpdate1, memRead1_ok h, memWrite1_ok _ h]

theorem memUpdate1_error {s : State} {a : Nat} (f : Byte → Byte) (h : s.len < a + 1) :
    memUpdate1 s a f = .error .bounds := by simp [memUpdate1, memRead1_error h]

theorem memUpdate2_ok {s : State} {a : Nat} (f : Half → Half) (h : a + 2 ≤ s.len) :
    memUpdate2 s a f = .ok { s with buf := Memory.write2 s.buf a (f (Memory.read2 s.buf a)) } := by
  simp [memUpdate2, memRead2_ok h, memWrite2_ok _ h]

theorem memUpdate2_error {s : State} {a : Nat} (f : Half → Half) (h : s.len < a + 2) :
    memUpdate2 s a f = .error .bounds := by simp [memUpdate2, memRead2_error h]

/-- Two bytes of BUF as a number (20_memory.md R61). -/
theorem memory_read2_toNat (m : Memory) (a : Nat) :
    (Memory.read2 m a).toNat = (Memory.read m a).toNat * 256 + (Memory.read m (a + 1)).toNat := by
  have := (Memory.read m (a + 1)).isLt
  rw [Memory.read2, BitVec.toNat_append, Nat.shiftLeft_eq, ← Nat.mul_comm,
    ← Nat.two_pow_add_eq_or_of_lt this]

/-- A table after its entry is set (10_state.md R24). -/
theorem seqGet_seqSet (t : SeqTable) (a : Apid) (n : SeqCount) (b : Apid) :
    seqGet (seqSet t a n) b = if b = a then some n else seqGet t b := by
  unfold seqGet seqSet
  rw [sparseGet_set]
  by_cases h : b = a
  · simp [h]
  · have : b.toNat ≠ a.toNat := fun e => h (BitVec.eq_of_toNat_eq e)
    simp [h, this]

theorem tableInv_nil : TableInv [] := by simp [TableInv, sparseSorted]

theorem tableInv_seqSet {t : SeqTable} (h : TableInv t) (a : Apid) (n : SeqCount) :
    TableInv (seqSet t a n) := by
  refine ⟨sparseSorted_set _ _ _ h.1, fun c hc => ?_⟩
  rcases (mem_sparseSet ..).1 hc with rfl | hc
  · exact a.isLt
  · exact h.2 c hc.1

theorem setEvent_false (mask event : Byte) : setEvent false mask event = event := rfl

theorem setEvent_true (mask event : Byte) : setEvent true mask event = event ||| mask := rfl

/-- A sticky bit is never cleared by setting others (10_state.md R25). -/
theorem setEvent_sticky (b : Bool) (mask event : Byte) (k : Nat) (h : event.getLsbD k = true) :
    (setEvent b mask event).getLsbD k = true := by
  cases b <;> simp [setEvent, h]

end Sys2Proof.Machine
end

