-- ==== Sys2Proof/Laws/PerInstr.lean ====
section
/-! SUPPORT. The family of lemmas, one per command, that its encoding is a legal word (30_encoding.md
R81): the opcode is assigned and every bit that is no operand is 0. -/

namespace Sys2Proof.Laws

/-- The three fields of a word put together from them (R80). -/
theorem splitWord_packWord (op : Byte) (a : BitVec 24) (b : Word) :
    splitWord (packWord op a b) = ⟨op, a, b⟩ := by
  have h1 : (packWord op a b).extractLsb' 56 8 = op := by
    apply BitVec.eq_of_getLsbD_eq
    intro i hi
    have e1 : ¬ 56 + i < 32 := by omega
    have e2 : ¬ 56 + i - 32 < 24 := by omega
    have e3 : 56 + i - 32 - 24 = i := by omega
    simp only [packWord, BitVec.getLsbD_extractLsb', BitVec.getLsbD_append, hi, e1, e2, e3,
      if_false, decide_true, Bool.true_and]
  have h2 : (packWord op a b).extractLsb' 32 24 = a := by
    apply BitVec.eq_of_getLsbD_eq
    intro i hi
    have e1 : ¬ 32 + i < 32 := by omega
    have e3 : 32 + i - 32 = i := by omega
    simp only [packWord, BitVec.getLsbD_extractLsb', BitVec.getLsbD_append, hi, e1, e3,
      if_false, if_true, decide_true, Bool.true_and]
  have h3 : (packWord op a b).setWidth 32 = b := by
    apply BitVec.eq_of_getLsbD_eq
    intro i hi
    simp only [packWord, BitVec.getLsbD_setWidth, BitVec.getLsbD_append, hi, if_true, decide_true,
      Bool.true_and]
  simp [splitWord, h1, h2, h3]

/-- A packed word is legal when its operands fit the widths of its opcode's row. -/
theorem wellFormed_packWord (op : Byte) (a : BitVec 24) (b : Word) (wa wb : Nat)
    (h : operandWidths op = some (wa, wb)) (ha : a.toNat < 2 ^ wa) (hb : b.toNat < 2 ^ wb) :
    (splitWord (packWord op a b)).wellFormed = true := by
  rw [splitWord_packWord]
  simp [RawCommand.wellFormed, RawCommand.opAssigned, RawCommand.aClear, RawCommand.bClear, h, ha, hb]

/-- An operand widened by zeros keeps its value's bound. -/
theorem setWidth_lt {k : Nat} (n : Nat) (v : BitVec k) : (v.setWidth n).toNat < 2 ^ k :=
  lt_of_le_of_lt (by rw [BitVec.toNat_setWidth]; exact Nat.mod_le _ _) v.isLt

/-- The operand of `SHDR` leaves bits 31:29 zero (R86). -/
theorem shdrOperand_lt (type shf : BitVec 1) (apid : Apid) (seqf : BitVec 2) (seq : SeqCount) :
    (shdrOperand type shf apid seqf seq).toNat < 2 ^ 29 := by
  have h : (shdrOperand type shf apid seqf seq) =
      ((type ++ shf ++ apid ++ seqf ++ seq : BitVec 29).setWidth 32) := by
    apply BitVec.eq_of_getLsbD_eq
    intro i hi
    simp only [shdrOperand, BitVec.getLsbD_append, BitVec.getLsbD_setWidth, BitVec.getLsbD_zero, hi,
      decide_true, Bool.true_and]
    split_ifs <;> first | rfl | (symm; exact BitVec.getLsbD_of_ge _ _ (by omega))
  rw [h]
  exact setWidth_lt 32 _

/-- The encoding of `i` is a legal word (R81). -/
def EncodesLegalWord.Statement (i : Instr) : Prop := (splitWord (encode i)).wellFormed = true

namespace EncodesLegalWord

theorem nop : Statement (.nop) :=
  wellFormed_packWord _ _ _ _ _ rfl (by decide) (by decide)

theorem srst : Statement (.srst) :=
  wellFormed_packWord _ _ _ _ _ rfl (by decide) (by decide)

theorem csrr (csrno : BitVec 24) : Statement (.csrr csrno) :=
  wellFormed_packWord _ _ _ _ _ rfl csrno.isLt (by decide)

theorem csrw (csrno : BitVec 24) (v32 : Word) : Statement (.csrw csrno v32) :=
  wellFormed_packWord _ _ _ _ _ rfl csrno.isLt v32.isLt

theorem setlen (n : Word) : Statement (.setlen n) :=
  wellFormed_packWord _ _ _ _ _ rfl (by decide) n.isLt

theorem rdlen : Statement (.rdlen) :=
  wellFormed_packWord _ _ _ _ _ rfl (by decide) (by decide)

theorem rdb (off : BitVec 24) : Statement (.rdb off) :=
  wellFormed_packWord _ _ _ _ _ rfl off.isLt (by decide)

theorem wrb (off : BitVec 24) (byte : Byte) : Statement (.wrb off byte) :=
  wellFormed_packWord _ _ _ _ _ rfl off.isLt (setWidth_lt _ _)

theorem appb (byte : Byte) : Statement (.appb byte) :=
  wellFormed_packWord _ _ _ _ _ rfl (by decide) (setWidth_lt _ _)

theorem sum16 (off : BitVec 24) (n : Word) : Statement (.sum16 off n) :=
  wellFormed_packWord _ _ _ _ _ rfl off.isLt n.isLt

theorem crc16 (off : BitVec 24) (n : Word) : Statement (.crc16 off n) :=
  wellFormed_packWord _ _ _ _ _ rfl off.isLt n.isLt

theorem flet16 (off : BitVec 24) (n : Word) : Statement (.flet16 off n) :=
  wellFormed_packWord _ _ _ _ _ rfl off.isLt n.isLt

theorem cksum (off : BitVec 24) (n : Word) : Statement (.cksum off n) :=
  wellFormed_packWord _ _ _ _ _ rfl off.isLt n.isLt

theorem gver : Statement (.gver) :=
  wellFormed_packWord _ _ _ _ _ rfl (by decide) (by decide)

theorem gtype : Statement (.gtype) :=
  wellFormed_packWord _ _ _ _ _ rfl (by decide) (by decide)

theorem gshf : Statement (.gshf) :=
  wellFormed_packWord _ _ _ _ _ rfl (by decide) (by decide)

theorem gapid : Statement (.gapid) :=
  wellFormed_packWord _ _ _ _ _ rfl (by decide) (by decide)

theorem gseqf : Statement (.gseqf) :=
  wellFormed_packWord _ _ _ _ _ rfl (by decide) (by decide)

theorem gseq : Statement (.gseq) :=
  wellFormed_packWord _ _ _ _ _ rfl (by decide) (by decide)

theorem glenf : Statement (.glenf) :=
  wellFormed_packWord _ _ _ _ _ rfl (by decide) (by decide)

theorem gplen : Statement (.gplen) :=
  wellFormed_packWord _ _ _ _ _ rfl (by decide) (by decide)

theorem gcoarse : Statement (.gcoarse) :=
  wellFormed_packWord _ _ _ _ _ rfl (by decide) (by decide)

theorem gfine : Statement (.gfine) :=
  wellFormed_packWord _ _ _ _ _ rfl (by decide) (by decide)

theorem gcki : Statement (.gcki) :=
  wellFormed_packWord _ _ _ _ _ rfl (by decide) (by decide)

theorem sver (ver : BitVec 3) : Statement (.sver ver) :=
  wellFormed_packWord _ _ _ _ _ rfl (by decide) (setWidth_lt _ _)

theorem stype (type : BitVec 1) : Statement (.stype type) :=
  wellFormed_packWord _ _ _ _ _ rfl (by decide) (setWidth_lt _ _)

theorem sshf (shf : BitVec 1) : Statement (.sshf shf) :=
  wellFormed_packWord _ _ _ _ _ rfl (by decide) (setWidth_lt _ _)

theorem sapid (apid : Apid) : Statement (.sapid apid) :=
  wellFormed_packWord _ _ _ _ _ rfl (by decide) (setWidth_lt _ _)

theorem sseqf (seqf : BitVec 2) : Statement (.sseqf seqf) :=
  wellFormed_packWord _ _ _ _ _ rfl (by decide) (setWidth_lt _ _)

theorem sseq (seq : SeqCount) : Statement (.sseq seq) :=
  wellFormed_packWord _ _ _ _ _ rfl (by decide) (setWidth_lt _ _)

theorem slenf (lenf : Half) : Statement (.slenf lenf) :=
  wellFormed_packWord _ _ _ _ _ rfl (by decide) (setWidth_lt _ _)

theorem shdr (type : BitVec 1) (shf : BitVec 1) (apid : Apid) (seqf : BitVec 2) (seq : SeqCount) : Statement (.shdr type shf apid seqf seq) :=
  wellFormed_packWord _ _ _ _ _ rfl (by decide) (shdrOperand_lt ..)

theorem scoarse (coarse : Word) : Statement (.scoarse coarse) :=
  wellFormed_packWord _ _ _ _ _ rfl (by decide) coarse.isLt

theorem sfine (fine : Byte) : Statement (.sfine fine) :=
  wellFormed_packWord _ _ _ _ _ rfl (by decide) (setWidth_lt _ _)

theorem scki (cki : BitVec 1) : Statement (.scki cki) :=
  wellFormed_packWord _ _ _ _ _ rfl (by decide) (setWidth_lt _ _)

theorem finit : Statement (.finit) :=
  wellFormed_packWord _ _ _ _ _ rfl (by decide) (by decide)

theorem fpush (byte : Byte) : Statement (.fpush byte) :=
  wellFormed_packWord _ _ _ _ _ rfl (by decide) (setWidth_lt _ _)

theorem feof : Statement (.feof) :=
  wellFormed_packWord _ _ _ _ _ rfl (by decide) (by decide)

theorem ftake : Statement (.ftake) :=
  wellFormed_packWord _ _ _ _ _ rfl (by decide) (by decide)

theorem frst : Statement (.frst) :=
  wellFormed_packWord _ _ _ _ _ rfl (by decide) (by decide)

theorem rxproc : Statement (.rxproc) :=
  wellFormed_packWord _ _ _ _ _ rfl (by decide) (by decide)

theorem seqchk (apid : Apid) (seq : SeqCount) : Statement (.seqchk apid seq) :=
  wellFormed_packWord _ _ _ _ _ rfl (setWidth_lt _ _) (setWidth_lt _ _)

theorem seqget (apid : Apid) : Statement (.seqget apid) :=
  wellFormed_packWord _ _ _ _ _ rfl (setWidth_lt _ _) (by decide)

theorem txproc (fine : Byte) (coarse : Word) : Statement (.txproc fine coarse) :=
  wellFormed_packWord _ _ _ _ _ rfl (setWidth_lt _ _) coarse.isLt

theorem seqnext (apid : Apid) : Statement (.seqnext apid) :=
  wellFormed_packWord _ _ _ _ _ rfl (setWidth_lt _ _) (by decide)

theorem txseqget (apid : Apid) : Statement (.txseqget apid) :=
  wellFormed_packWord _ _ _ _ _ rfl (setWidth_lt _ _) (by decide)

end EncodesLegalWord

end Sys2Proof.Laws
end

