-- ==== Sys2Proof/Tests/Slice0.lean ====
section
/-! SUPPORT. The model's own tests: ill-formed commands are refused, every constructor's word as the
spec writes it decodes to it, one or two single steps per command with values of 95_test_vectors.md or
of the rule's own example, and for every obligation with hypotheses a witness that meets them. -/

namespace Sys2Proof.Tests

open Sys2Proof.Machine

/-! ## Helpers -/

/-- The bytes placed from address `a` on, in canonical form. -/
def memoryOf (a : Nat) (bytes : List Byte) : Memory :=
  match bytes with
  | [] => []
  | x :: rest => if x = 0 then memoryOf (a + 1) rest else (a, x) :: memoryOf (a + 1) rest

/-- The reset state with the given packet in BUF. -/
def loaded (bytes : List Byte) : State :=
  { State.reset with buf := memoryOf 0 bytes, len := bytes.length }

/-- A build whose buffers hold 16 bytes. -/
def smallBuild : Params := { bufsz := 16 }

/-- The reset state with the control registers changed. -/
def configured (f : Csr → Csr) : State := { State.reset with csr := f State.reset.csr }

/-- One field of the next state. -/
def after {α : Type} (f : State → α) (r : Result) : Option α :=
  match r with
  | .next t => some (f t)
  | _ => none

/-- The response word of the next state. -/
def reply (r : Result) : Option PortWord :=
  match r with
  | .next t => t.rsp
  | _ => none

/-- The packet in BUF of the next state. -/
def packet (r : Result) : Option (List Byte) := after (fun t => Memory.bytes t.buf 0 t.len) r

/-- The example packet of the spec's 1.8: APID 5, count 10, a valid CRC. -/
def telemetry : List Byte :=
  [0x08, 0x05, 0xC0, 0x0A, 0x00, 0x0D, 0x12, 0x34, 0x56, 0x78, 0x9A, 0x20, 0x00, 0x00, 0x00, 0x01,
    0xDE, 0xAD, 0x90, 0xB2]

/-- The example command of 45_tx_pipeline.md R221. -/
def command : List Byte :=
  [0x18, 0x64, 0xC0, 0x00, 0x00, 0x00, 0x00, 0x00, 0x00, 0x00, 0x00, 0x20, 0x00, 0x00, 0x00, 0x2A]

/-! ## Well-formedness: an ill-formed command for each check -/

theorem test_refuses_unassigned_opcode :
    RawCommand.opAssigned ⟨0x09, 0, 0⟩ = false ∧ RawCommand.wellFormed ⟨0x09, 0, 0⟩ = false := by
  decide

theorem test_refuses_must_be_zero_in_a :
    RawCommand.opAssigned ⟨0x51, 0x800, 0⟩ = true ∧ RawCommand.aClear ⟨0x51, 0x800, 0⟩ = false ∧
      RawCommand.wellFormed ⟨0x51, 0x800, 0⟩ = false := by
  decide

theorem test_refuses_must_be_zero_in_b :
    RawCommand.aClear ⟨0x37, 0, 0x20000000⟩ = true ∧
      RawCommand.bClear ⟨0x37, 0, 0x20000000⟩ = false ∧
      RawCommand.wellFormed ⟨0x37, 0, 0x20000000⟩ = false := by
  decide

theorem test_accepts_well_formed : RawCommand.wellFormed ⟨0x37, 0, 0x1923802A⟩ = true := by decide

/-! ## Decoding: words written out from 30_encoding.md R80, R83, R86 -/

theorem test_decode_system :
    decode 0x0000000000000000 = .ok .nop ∧ decode 0x0100000000000000 = .ok .srst ∧
    decode 0x0200002B00000000 = .ok (.csrr 0x2B) ∧
    decode 0x0300000E80000001 = .ok (.csrw 0x0E 0x80000001) := ⟨rfl, rfl, rfl, rfl⟩

theorem test_decode_buffer :
    decode 0x0400000000010006 = .ok (.setlen 65542) ∧ decode 0x0500000000000000 = .ok .rdlen ∧
    decode 0x0680000100000000 = .ok (.rdb 0x800001) ∧
    decode 0x07000011000000BE = .ok (.wrb 17 0xBE) ∧
    decode 0x0800000000000081 = .ok (.appb 0x81) := ⟨rfl, rfl, rfl, rfl, rfl⟩

theorem test_decode_checksum :
    decode 0x1000000580000003 = .ok (.sum16 5 0x80000003) ∧
    decode 0x1100000000000012 = .ok (.crc16 0 18) ∧
    decode 0x12800000FFFFFFFF = .ok (.flet16 0x800000 0xFFFFFFFF) ∧
    decode 0x1300000400000002 = .ok (.cksum 4 2) := ⟨rfl, rfl, rfl, rfl⟩

theorem test_decode_header_get :
    decode 0x2000000000000000 = .ok .gver ∧ decode 0x2100000000000000 = .ok .gtype ∧
    decode 0x2200000000000000 = .ok .gshf ∧ decode 0x2300000000000000 = .ok .gapid ∧
    decode 0x2400000000000000 = .ok .gseqf ∧ decode 0x2500000000000000 = .ok .gseq ∧
    decode 0x2600000000000000 = .ok .glenf ∧ decode 0x2700000000000000 = .ok .gplen ∧
    decode 0x2800000000000000 = .ok .gcoarse ∧ decode 0x2900000000000000 = .ok .gfine ∧
    decode 0x2A00000000000000 = .ok .gcki :=
  ⟨rfl, rfl, rfl, rfl, rfl, rfl, rfl, rfl, rfl, rfl, rfl⟩

theorem test_decode_header_set :
    decode 0x3000000000000004 = .ok (.sver 4) ∧ decode 0x3100000000000001 = .ok (.stype 1) ∧
    decode 0x3200000000000001 = .ok (.sshf 1) ∧ decode 0x3300000000000401 = .ok (.sapid 0x401) ∧
    decode 0x3400000000000002 = .ok (.sseqf 2) ∧ decode 0x3500000000002001 = .ok (.sseq 0x2001) ∧
    decode 0x3600000000008001 = .ok (.slenf 0x8001) ∧
    decode 0x370000001923802A = .ok (.shdr 1 1 0x123 0b10 42) ∧
    decode 0x3800000012345678 = .ok (.scoarse 0x12345678) ∧
    decode 0x390000000000009A = .ok (.sfine 0x9A) ∧ decode 0x3A00000000000001 = .ok (.scki 1) :=
  ⟨rfl, rfl, rfl, rfl, rfl, rfl, rfl, rfl, rfl, rfl, rfl⟩

theorem test_decode_framer :
    decode 0x4000000000000000 = .ok .finit ∧ decode 0x4100000000000077 = .ok (.fpush 0x77) ∧
    decode 0x4200000000000000 = .ok .feof ∧ decode 0x4300000000000000 = .ok .ftake ∧
    decode 0x4400000000000000 = .ok .frst := ⟨rfl, rfl, rfl, rfl, rfl⟩

theorem test_decode_pipelines :
    decode 0x5000000000000000 = .ok .rxproc ∧
    decode 0x510004D200002001 = .ok (.seqchk 0x4D2 0x2001) ∧
    decode 0x5200012300000000 = .ok (.seqget 0x123) ∧
    decode 0x6000009A12345678 = .ok (.txproc 0x9A 0x12345678) ∧
    decode 0x6100040100000000 = .ok (.seqnext 0x401) ∧
    decode 0x6200006400000000 = .ok (.txseqget 0x64) := ⟨rfl, rfl, rfl, rfl, rfl, rfl⟩

/-- Steps 1 to 10 of program P5. -/
theorem test_decode_refuses_illegal_words :
    decode 0xFF00000000000000 = .error (.unknownOpcode 0xFF) ∧
    decode 0x0000000000000001 = .error (.mustBeZero 0x00) ∧
    decode 0x2000000100000000 = .error (.mustBeZero 0x20) ∧
    decode 0x3000000000000008 = .error (.mustBeZero 0x30) ∧
    decode 0x5100080000000000 = .error (.mustBeZero 0x51) ∧
    decode 0x5100000000004000 = .error (.mustBeZero 0x51) ∧
    decode 0x6000010000000000 = .error (.mustBeZero 0x60) ∧
    decode 0x0100010000000000 = .error (.mustBeZero 0x01) :=
  ⟨rfl, rfl, rfl, rfl, rfl, rfl, rfl, rfl⟩

theorem test_table_word_reaches_the_decoder :
    decodeTableWord 64 0x370000001923802A = some (.shdr 1 1 0x123 0b10 42) ∧
      decodeTableWord 64 0x0900000000000000 = none := ⟨rfl, rfl⟩

/-! ## Steps -/

theorem test_step_runs_the_presented_word :
    reply (step (State.reset.withFetchWord 64 0x0500000000000000)) = some 0 := by decide

theorem test_step_refuses_an_illegal_word :
    reply (step (State.reset.withFetchWord 64 0x0900000000000000)) = some 0x100000000 ∧
      after State.event (step (State.reset.withFetchWord 64 0x0900000000000000)) = some 0x80 := by
  decide

theorem test_rst_wins_over_a_command :
    after State.len (step { loaded [1, 2] with port := [⟨true, true, 0x0500000000000000⟩] }) =
      some 0 := by decide

theorem test_idle_sample_answers_nothing :
    reply (step { loaded [1, 2] with port := [⟨false, false, 0x0500000000000000⟩] }) = none := by
  decide

/-! ## System commands -/

theorem test_nop : reply (exec .nop (loaded [7])) = some 0 := by decide

theorem test_srst_forgets_the_sequence_table :
    after (fun t => seqGet t.rxSeq 7) (exec .srst { State.reset with rxSeq := [(7, 1)] }) =
      some none := by decide

theorem test_csrr_reads_the_reset_values :
    reply (exec (.csrr 0x01) State.reset) = some 0xFFFF ∧
      reply (exec (.csrr 0x0A) State.reset) = some 0x10006 := by decide

theorem test_csrr_refuses_an_unknown_number :
    reply (exec (.csrr 0x05) State.reset) = some 0x100000000 := by decide

theorem test_csrw_clears_written_ones_of_event :
    after State.event (exec (.csrw 0x18 0x82) { State.reset with event := 0x86 }) = some 0x04 := by
  decide

theorem test_csrw_refuses_an_unknown_checksum :
    reply (exec (.csrw 0x00 3) State.reset) = some 0x400000000 ∧
      reply (exec (.csrw 0x11 0) State.reset) = some 0x100000000 := by decide

/-! ## Buffer commands -/

theorem test_setlen_zero_fills :
    packet (exec (.setlen 3) (loaded [0xAA])) = some [0xAA, 0, 0] := by decide

theorem test_setlen_cuts :
    after State.buf (exec (.setlen 1) (loaded [0xAA, 0xBB, 0xCC])) = some [(0, 0xAA)] := by decide

theorem test_rdlen : reply (exec .rdlen (loaded telemetry)) = some 0x14 := by decide

theorem test_rdb :
    reply (exec (.rdb 2) (loaded [0xAA, 0xBB, 0xCC])) = some 0xCC ∧
      reply (exec (.rdb 3) (loaded [0xAA, 0xBB, 0xCC])) = some 0x200000000 := by decide

theorem test_wrb :
    packet (exec (.wrb 1 0x11) (loaded [0xAA, 0xBB, 0xCC])) = some [0xAA, 0x11, 0xCC] := by decide

theorem test_appb :
    packet (exec (.appb 0x05) (loaded [0x08])) = some [0x08, 0x05] ∧
      reply (exec (.appb 0x05) (loaded [0x08])) = some 2 := by decide

theorem test_appb_refuses_a_full_buffer :
    reply (exec (.appb 0) { State.reset with len := 65542 }) = some 0x200000000 := by decide

/-! ## Checksums -/

theorem test_sum16_drops_the_carry :
    reply (exec (.sum16 0 4) (loaded [0xFF, 0xFF, 0x00, 0x02])) = some 0x0001 ∧
      reply (exec (.sum16 1 2) (loaded [1, 2, 3, 4])) = some 0x0203 := by decide

theorem test_sum16_tests_parity_first :
    reply (exec (.sum16 4 1) (loaded [1, 2, 3, 4])) = some 0x300000000 := by decide

theorem test_crc16 :
    reply (exec (.crc16 0 9) (loaded [0x31, 0x32, 0x33, 0x34, 0x35, 0x36, 0x37, 0x38, 0x39])) =
      some 0x29B1 := by decide +kernel

theorem test_crc16_range :
    reply (exec (.crc16 4 0) (loaded [1, 2, 3, 4])) = some 0xFFFF ∧
      reply (exec (.crc16 5 0) (loaded [1, 2, 3, 4])) = some 0x200000000 := by decide

theorem test_flet16 :
    reply (exec (.flet16 0 4) (loaded [1, 2, 3, 4])) = some 0x140A ∧
      reply (exec (.flet16 0 2) (loaded [0xFE, 0x01])) = some 0xFE00 := by decide

theorem test_cksum_follows_cksel :
    reply (exec (.cksum 0 4) (loaded [1, 2, 3, 4])) = some 0x89C3 ∧
      reply (exec (.cksum 0 4) { loaded [1, 2, 3, 4] with
        csr := { State.reset.csr with ckSel := .fletcher } }) = some 0x140A := by decide +kernel

theorem test_cksum_refuses_an_odd_sum :
    reply (exec (.cksum 0 3) { loaded [1, 2, 3, 4] with
      csr := { State.reset.csr with ckSel := .sum } }) = some 0x300000000 := by decide

/-! ## Header codec -/

theorem test_gver : reply (exec .gver (loaded [0x39, 0x23])) = some 1 := by decide

theorem test_gtype :
    reply (exec .gtype (loaded [0x19, 0x23])) = some 1 ∧
      reply (exec .gtype (loaded [0x08, 0x05])) = some 0 := by decide

theorem test_gshf :
    reply (exec .gshf (loaded [0x19, 0x23])) = some 1 ∧
      reply (exec .gshf (loaded [0x10, 0x05])) = some 0 := by decide

theorem test_gapid :
    reply (exec .gapid (loaded [0x19, 0x23])) = some 0x123 ∧
      reply (exec .gapid (loaded [0x19])) = some 0x200000000 := by decide

theorem test_gseqf : reply (exec .gseqf (loaded [0x19, 0x23, 0x80, 0x2A])) = some 2 := by decide

theorem test_gseq : reply (exec .gseq (loaded [0x19, 0x23, 0xFF, 0xFE])) = some 0x3FFE := by decide

theorem test_glenf : reply (exec .glenf (loaded [0, 0, 0, 0, 0x12, 0x0D])) = some 0x120D := by decide

theorem test_gplen_does_not_wrap :
    reply (exec .gplen (loaded [0, 0, 0, 0, 0xFF, 0xFF])) = some 65542 := by decide

theorem test_gcoarse :
    reply (exec .gcoarse (loaded [0, 0, 0, 0, 0, 0, 0x12, 0x34, 0x56, 0x78])) =
      some 0x12345678 := by decide

theorem test_gfine : reply (exec .gfine (loaded telemetry)) = some 0x9A := by decide

theorem test_gcki :
    reply (exec .gcki (loaded telemetry)) = some 1 ∧
      reply (exec .gcki (loaded [0, 0, 0, 0, 0, 0, 0, 0, 0, 0, 0, 0xDF])) = some 0 := by decide

theorem test_sver : packet (exec (.sver 1) (loaded [0xF9, 0x23])) = some [0x39, 0x23] := by decide

theorem test_stype : packet (exec (.stype 1) (loaded [0x08, 0x05])) = some [0x18, 0x05] := by decide

theorem test_sshf : packet (exec (.sshf 0) (loaded [0x08, 0x05])) = some [0x00, 0x05] := by decide

theorem test_sapid : packet (exec (.sapid 0x123) (loaded [0x1E, 0x05])) = some [0x19, 0x23] := by
  decide

theorem test_sseqf :
    packet (exec (.sseqf 0b10) (loaded [0, 0, 0xC0, 0x0A])) = some [0, 0, 0x80, 0x0A] := by decide

theorem test_sseq :
    packet (exec (.sseq 0x3F2A) (loaded [0, 0, 0xC0, 0x0A])) = some [0, 0, 0xFF, 0x2A] := by decide

theorem test_slenf :
    packet (exec (.slenf 0x120D) (loaded [1, 2, 3, 4, 5, 6])) = some [1, 2, 3, 4, 0x12, 0x0D] := by
  decide

theorem test_shdr :
    packet (exec (.shdr 1 1 0x123 0b10 42)
      (loaded [0xAA, 0xAA, 0xAA, 0xAA, 0xAA, 0xAA, 0xAA])) =
      some [0x19, 0x23, 0x80, 0x2A, 0x00, 0x00, 0xAA] := by decide

theorem test_shdr_needs_seven_bytes :
    reply (exec (.shdr 1 1 0x123 0b10 42) (loaded [1, 2, 3, 4, 5, 6])) = some 0x300000000 := by
  decide

theorem test_scoarse :
    after State.buf (exec (.scoarse 0x12345678) { State.reset with len := 12 }) =
      some [(6, 0x12), (7, 0x34), (8, 0x56), (9, 0x78)] := by decide

theorem test_sfine :
    after State.buf (exec (.sfine 0x9A) { State.reset with len := 12 }) = some [(10, 0x9A)] := by
  decide

theorem test_scki :
    after State.buf (exec (.scki 1) { State.reset with len := 12 }) = some [(11, 0x20)] ∧
      after State.buf (exec (.scki 0) { State.reset with len := 12, buf := [(11, 0xFF)] }) =
        some [(11, 0xDF)] := by decide

/-! ## Framer -/

/-- A framer in the CCSDS variant with five bytes of `08 05 C0 0A 00 00 77` pushed. -/
def midHeader : State :=
  { configured (fun c => { c with fMode := .ccsds }) with
    fr := { fst := .header, fpos := 5, ftot := 0, flen := 5
            fbuf := memoryOf 0 [0x08, 0x05, 0xC0, 0x0A, 0x00]
            fhdr := memoryOf 0 [0x08, 0x05, 0xC0, 0x0A, 0x00]
            cfg := ⟨.ccsds, 0, 65542, 0, 0, 0, 0, 0, 6⟩ } }

/-- The same framer with the header complete. -/
def midBody : State :=
  { midHeader with fr := { midHeader.fr with fst := .body, fpos := 6, ftot := 7, flen := 6 } }

/-- The same framer with the packet complete. -/
def packetReady : State :=
  { midHeader with
    fr := { midHeader.fr with
      fst := .ready, fpos := 7, ftot := 7, flen := 7
      fbuf := memoryOf 0 [0x08, 0x05, 0xC0, 0x0A, 0x00, 0x00, 0x77] } }

/-- The generic variant with the parameters of P3: little-endian field at 2, adjustment 4, strip 6. -/
def genericHeader : State :=
  { State.reset with
    fr := { fst := .header, fpos := 3, ftot := 0, flen := 0, fbuf := []
            fhdr := memoryOf 0 [0xAA, 0xBB, 0x06]
            cfg := ⟨.generic, 0, 65542, 2, 2, 1, 4, 6, 4⟩ } }

theorem test_finit_needs_a_variant :
    reply (exec .finit State.reset) = some 0x400000000 := by decide

theorem test_finit_starts_the_header :
    after (fun t => (t.fr.fst, t.fr.cfg.e)) (exec .finit
      (configured fun c => { c with fMode := .ccsds })) = some (.header, 6) := by decide

theorem test_fpush_resolves_the_header :
    reply (exec (.fpush 0x00) midHeader) = some 0 ∧
      after (fun t => (t.fr.fst, t.fr.ftot)) (exec (.fpush 0x00) midHeader) = some (.body, 7) ∧
      after (fun t => (t.fr.fst, t.fr.ftot)) (exec (.fpush 0x00) genericHeader) =
        some (.body, 10) := by decide

theorem test_fpush_completes_the_packet :
    reply (exec (.fpush 0x77) midBody) = some 1 ∧
      after (fun t => (t.fr.fst, t.fr.flen)) (exec (.fpush 0x77) midBody) = some (.ready, 7) := by
  decide

theorem test_feof_in_a_packet :
    reply (exec .feof midHeader) = some 0x500000000 ∧
      after (fun t => t.fr.fst) (exec .feof midHeader) = some .off := by decide

theorem test_ftake :
    packet (exec .ftake packetReady) = some [0x08, 0x05, 0xC0, 0x0A, 0x00, 0x00, 0x77] ∧
      reply (exec .ftake packetReady) = some 7 := by decide

theorem test_ftake_refused_without_a_packet :
    reply (exec .ftake midBody) = some 0x800000000 := by decide

theorem test_frst : after (fun t => (t.fr.fst, t.fr.fpos)) (exec .frst midBody) = some (.off, 0) := by
  decide

/-! ## Pipelines -/

theorem test_rxproc_telemetry :
    reply (exec .rxproc (loaded telemetry)) = some 0x18 ∧
      after (fun t => (t.rx.seqId, t.rx.coarse, t.rx.fine)) (exec .rxproc (loaded telemetry)) =
        some (0x0005000A, 0x12345678, 0x9A) := by decide +kernel

theorem test_rxproc_drops_an_empty_packet :
    reply (exec .rxproc State.reset) = some 1 ∧
      after State.event (exec .rxproc State.reset) = some 0x01 := by decide

theorem test_seqchk_gap :
    reply (exec (.seqchk 5 5) { State.reset with rxSeq := [(5, 3)] }) = some 1 ∧
      after State.event (exec (.seqchk 5 5) { State.reset with rxSeq := [(5, 3)] }) =
        some 0x04 := by decide

theorem test_seqchk_wraps :
    reply (exec (.seqchk 7 0) { State.reset with rxSeq := [(7, 16383)] }) = some 0 := by decide

theorem test_seqget :
    reply (exec (.seqget 7) { State.reset with rxSeq := [(7, 0)] }) = some 0x10000 ∧
      reply (exec (.seqget 8) { State.reset with rxSeq := [(7, 0)] }) = some 0 := by decide

theorem test_txproc_stamps :
    reply (exec (.txproc 0x9A 0x12345678) (loaded command)) = some 0x1B ∧
      packet (exec (.txproc 0x9A 0x12345678) (loaded command)) =
        some [0x18, 0x64, 0xC0, 0x00, 0x00, 0x0B, 0x12, 0x34, 0x56, 0x78, 0x9A, 0x20, 0x00, 0x00,
          0x00, 0x2A, 0x69, 0x37] := by decide +kernel

theorem test_txproc_counts_a_plain_command :
    packet (exec (.txproc 0x55 0x11111111)
      { loaded [0x10, 0x64, 0xC0, 0x00, 0x00, 0x03, 0xAA, 0xBB, 0xCC, 0xDD] with
        txSeq := [(0x64, 0)] }) =
      some [0x10, 0x64, 0xC0, 0x01, 0x00, 0x03, 0xAA, 0xBB, 0xCC, 0xDD] := by decide

theorem test_seqnext :
    reply (exec (.seqnext 100) { State.reset with txSeq := [(100, 16383)] }) = some 0 ∧
      reply (exec (.seqnext 3) { State.reset with txSeq := [(100, 16383)] }) = some 0 := by decide

theorem test_txseqget :
    reply (exec (.txseqget 100) { State.reset with txSeq := [(100, 1)] }) = some 0x10001 := by decide

/-! ## Witnesses: states and operands that meet each obligation's hypotheses -/

/-- The reset state whose port presents `w` and then an idle sample. -/
def presenting (w : PortWord) : State :=
  { State.reset with port := [commandSample w, ⟨false, false, 0⟩] }

theorem witness_EncodeOfDecode : decode 0x1100000000000012 = .ok (.crc16 0 18) := rfl

theorem witness_DecoderAcceptsExactlyTheTable :
    (0x5100080000000000, 0xFFFFF800FFFFC000) ∉ opcodeRows ∧
    (0x5100000000000000, 0xFFFFF800FFFFC000) ∈ opcodeRows ∧
    (0x510007FF00003FFF : PortWord) &&& 0xFFFFF800FFFFC000 = 0x5100000000000000 := by decide

theorem witness_StepRunsTheDecodedCommand :
    (presenting 0x4100000000000008).port =
      commandSample 0x4100000000000008 :: [⟨false, false, 0⟩] ∧
    decode 0x4100000000000008 = .ok (.fpush 8) := ⟨rfl, rfl⟩

theorem witness_IllegalCommandsAnswerIllegal :
    (∀ r ∈ opcodeRows, (0x3700000020000000 : PortWord) &&& r.2 ≠ r.1) ∧
    csrOfNum 0x05 = none ∧ csrOfNum 0x2C = none ∧ csrOfNum 0x11 = some .fState ∧
    csrReadOnly .fState = true ∧ csrOfNum 0x2B = some .txApid ∧ csrReadOnly .txApid = true :=
  ⟨fun r hr => of_decide_eq_true (List.all_eq_true.mp
      (show (opcodeRows.all fun r => decide (0x3700000020000000#64 &&& r.2 ≠ r.1)) = true by decide)
      r hr), by decide, by decide, by decide, by decide, by decide, by decide⟩

theorem witness_NoCommandChangesNothing :
    State.reset.port = [] ∧
    { State.reset with port := [⟨false, false, 1⟩] }.port = ⟨false, false, 1⟩ :: [] := ⟨rfl, rfl⟩

theorem witness_ResetAndSoftResetLeaveResetValues :
    { loaded telemetry with port := [⟨true, true, 1⟩] }.port = ⟨true, true, 1⟩ :: [] := rfl

theorem witness_CsrrReadsEachRegister :
    let numbers := [0, 1, 2, 3, 4, 8, 9, 10, 11, 12, 13, 14, 15, 16, 17, 18, 19, 20, 24, 32, 33, 34,
      35, 40, 41, 42, 43]
    (0x05 : BitVec 24).toNat ∉ numbers ∧ (0x17 : BitVec 24).toNat ∉ numbers ∧
    (0x2C : BitVec 24).toNat ∉ numbers ∧ (0xFFFFFF : BitVec 24).toNat ∉ numbers := by decide

/-- The boundary values of every range of R30 in the default build. -/
theorem witness_CsrwStoresLegalValuesOnly :
    (2 : Word).toNat ≤ 2 ∧ 2 < (3 : Word).toNat ∧
    (0xFFFF : Word).toNat ≤ 0xFFFF ∧ 0xFFFF < (0x10000 : Word).toNat ∧
    (State.reset.params.rxminFloor ≤ (12 : Word).toNat ∧ (12 : Word).toNat ≤ State.reset.params.bufsz) ∧
    (11 : Word).toNat < State.reset.params.rxminFloor ∧
    (65542 : Word).toNat ≤ State.reset.params.bufsz ∧ State.reset.params.bufsz < (65543 : Word).toNat ∧
    (1 : Word).toNat ≤ 1 ∧ 1 < (2 : Word).toNat ∧ (3 : Word).toNat ≤ 3 ∧ 3 < (4 : Word).toNat ∧
    1 ≤ (1 : Word).toNat ∧ 1 ≤ (4 : Word).toNat ∧ (4 : Word).toNat ≤ 4 ∧ (0 : Word).toNat = 0 ∧
    4 < (5 : Word).toNat ∧ (0x0B : BitVec 24) ∈ [0x03#24, 0x09#24, 0x0A#24, 0x0B#24] ∧
    (0x05 : BitVec 24).toNat ∉ [0, 1, 2, 3, 4, 8, 9, 10, 11, 12, 13, 14, 15, 24] ∧
    (0x10 : BitVec 24).toNat ∉ [0, 1, 2, 3, 4, 8, 9, 10, 11, 12, 13, 14, 15, 24] := by decide

theorem witness_AcceptedCsrValueIsReadBack :
    State.reset.params.Legal ∧ (0x0A : BitVec 24) ≠ 0x18 ∧
    reply (exec (.csrw 0x0A 65542) State.reset) = some 0 := by decide

theorem witness_SetlenCutsOrZeroFills :
    (65542 : Word).toNat ≤ (loaded telemetry).params.bufsz ∧
    (19 < (65542 : Word).toNat ∧ 19 < (loaded telemetry).len) ∧
    (20 < (65542 : Word).toNat ∧ (loaded telemetry).len ≤ 20) ∧
    (loaded telemetry).params.bufsz < (65543 : Word).toNat := by decide

theorem witness_RdlenAndRdbReadOnly :
    (19 : BitVec 24).toNat < (loaded telemetry).len ∧
    (loaded telemetry).len ≤ (20 : BitVec 24).toNat := by decide

theorem witness_WrbStoresOneByte :
    (0 : BitVec 24).toNat < (loaded [7]).len ∧ (loaded [7]).len ≤ (1 : BitVec 24).toNat := by decide

theorem witness_AppbAppendsOneByte :
    { State.reset with len := 65541 }.len < State.reset.params.bufsz ∧
    State.reset.params.bufsz ≤ { State.reset with len := 65542 }.len := by decide

theorem witness_LdpktLoadsThePacket :
    (List.replicate 16 (0xA5 : Byte)).length ≤ (State.resetWith smallBuild).params.bufsz ∧
    ([] : List Byte).length ≤ (State.resetWith smallBuild).params.bufsz ∧
    15 < (List.replicate 16 (0xA5 : Byte)).length := by decide

theorem witness_Sum16AddsBigEndianWords :
    (3 : Word).toNat % 2 = 1 ∧
    ((4 : Word).toNat % 2 = 0 ∧ (loaded [1, 2, 3, 4]).len < (1 : BitVec 24).toNat + (4 : Word).toNat) ∧
    ((4 : Word).toNat % 2 = 0 ∧ (0 : BitVec 24).toNat + (4 : Word).toNat ≤ (loaded [1, 2, 3, 4]).len) :=
  by decide

theorem witness_NegatedSumBringsSumToZero :
    let s := loaded [0x12, 0x34, 0xAB, 0xCD, 0x41, 0xFF]
    exec (.sum16 0 4) s = .next (answered 0xBE01 s) ∧ (6 : Word).toNat = (4 : Word).toNat + 2 ∧
    (0 : BitVec 24).toNat + (6 : Word).toNat ≤ s.len ∧
    byteAt s 4 * 256 + byteAt s 5 = (65536 - (0xBE01 : Word).toNat) % 65536 :=
  ⟨rfl, rfl, by decide, by decide⟩

theorem witness_Crc16RunsTheBitLoop :
    (loaded [1, 2, 3]).len < (1 : BitVec 24).toNat + (3 : Word).toNat ∧
    (1 : BitVec 24).toNat + (2 : Word).toNat ≤ (loaded [1, 2, 3]).len := by decide

theorem witness_CrcSplitsAtAnyPoint :
    let s := loaded [0x41, 0xB9, 0x15]
    (3 : Word).toNat = (1 : Word).toNat + (2 : Word).toNat ∧
    (1 : BitVec 24).toNat = (0 : BitVec 24).toNat + (1 : Word).toNat ∧
    (0 : BitVec 24).toNat + (3 : Word).toNat ≤ s.len ∧
    exec (.crc16 0 1) s = .next (answered 0xB915 s) := ⟨rfl, rfl, by decide, rfl⟩

theorem witness_CrcResidueIsZero :
    let s := loaded [0x41, 0xB9, 0x15]
    exec (.crc16 0 1) s = .next (answered 0xB915 s) ∧ (3 : Word).toNat = (1 : Word).toNat + 2 ∧
    (0 : BitVec 24).toNat + (3 : Word).toNat ≤ s.len ∧
    byteAt s 1 * 256 + byteAt s 2 = (0xB915 : Word).toNat := ⟨rfl, rfl, by decide, by decide⟩

theorem witness_Flet16HasTheClosedForm :
    (loaded [1, 2, 3]).len < (0 : BitVec 24).toNat + (4 : Word).toNat ∧
    (0 : BitVec 24).toNat + (3 : Word).toNat ≤ (loaded [1, 2, 3]).len := by decide

theorem witness_CksumIsTheSelectedCommand :
    (0 : BitVec 24).toNat + (4 : Word).toNat ≤ (loaded [1, 2, 3, 4]).len ∧
    ((configured fun c => { c with ckSel := .sum }).csr.ckSel = .sum → (4 : Word).toNat % 2 = 0) :=
  by decide

theorem witness_GetFieldsOfFirstHalfword :
    2 ≤ (loaded [0x19, 0x23]).len ∧ (loaded [0x19]).len < 2 := by decide

theorem witness_GetFieldsOfLaterHalfwords :
    4 ≤ (loaded [1, 2, 3, 4]).len ∧ (loaded [1, 2, 3]).len < 4 ∧
    6 ≤ (loaded [1, 2, 3, 4, 5, 6]).len ∧ (loaded [1, 2, 3, 4, 5]).len < 6 := by decide

theorem witness_GetSecondaryHeaderFields :
    State.reset.params.shCoarseOff + 4 ≤ 10 ∧ 9 < State.reset.params.shCoarseOff + 4 ∧
    State.reset.params.shFineOff < 11 ∧ 10 ≤ State.reset.params.shFineOff ∧
    State.reset.params.shCkiOff < 12 ∧ 11 ≤ State.reset.params.shCkiOff ∧
    { State.reset with len := 12 }.len = 12 := by decide

theorem witness_SetFieldsOfFirstHalfword :
    2 ≤ (loaded [0xFF, 0xFF]).len ∧ (loaded [0xFF]).len < 2 := by decide

theorem witness_SetFieldsOfLaterHalfwords :
    4 ≤ (loaded [1, 2, 3, 4]).len ∧ (loaded [1, 2, 3]).len < 4 ∧
    6 ≤ (loaded [1, 2, 3, 4, 5, 6]).len ∧ (loaded [1, 2, 3, 4, 5]).len < 6 := by decide

theorem witness_SetSecondaryHeaderFields :
    State.reset.params.shCoarseOff + 4 ≤ { State.reset with len := 10 }.len ∧
    { State.reset with len := 9 }.len < State.reset.params.shCoarseOff + 4 ∧
    State.reset.params.shFineOff < { State.reset with len := 11 }.len ∧
    { State.reset with len := 10 }.len ≤ State.reset.params.shFineOff ∧
    State.reset.params.shCkiOff < { State.reset with len := 12 }.len ∧
    State.reset.params.shCkiBit ≤ 7 ∧
    { State.reset with len := 11 }.len ≤ State.reset.params.shCkiOff := by decide

theorem witness_ShdrWritesTheHeader :
    (loaded [1, 2, 3, 4, 5]).len < 6 ∧ (loaded [1, 2, 3, 4, 5, 6]).len = 6 ∧
    (7 ≤ (loaded [1, 2, 3, 4, 5, 6, 7]).len ∧ (loaded [1, 2, 3, 4, 5, 6, 7]).len ≤ 65542) ∧
    7 ≤ { State.reset with len := 65542 }.len ∧ { State.reset with len := 65542 }.len ≤ 65542 := by
  decide

theorem witness_ShdrFieldsAreReadBack :
    7 ≤ (loaded telemetry).len ∧ (loaded telemetry).len ≤ 65542 ∧
    ∃ t, exec (.shdr 1 1 0x123 0b10 42) (loaded telemetry) = .next t :=
  ⟨by decide, by decide, _, rfl⟩

theorem witness_FinitConstructsOrRefuses :
    (let c := (configured fun c => { c with fMode := .fixed, pktSize := 1 }).csr;
      c.fMode = .fixed ∧ 1 ≤ c.pktSize.toNat) ∧
    (let c := (configured fun c => { c with fMode := .ccsds, maxLen := 7 }).csr;
      c.fMode = .ccsds ∧ 7 ≤ c.maxLen.toNat) ∧
    (let c := (configured fun c =>
        { c with fMode := .generic, fcfgSet := 0b1111, lfOff := 65538, lfLen := 4 }).csr;
      c.fMode = .generic ∧ c.fcfgSet = 0b1111 ∧
        c.lfOff.toNat + c.lfLen.toNat ≤ State.reset.params.bufsz) ∧
    State.reset.csr.fMode = .noFraming ∧
    (let c := (configured fun c => { c with fMode := .fixed }).csr;
      c.fMode = .fixed ∧ c.pktSize = 0) ∧
    (let c := (configured fun c => { c with fMode := .ccsds, maxLen := 6 }).csr;
      c.fMode = .ccsds ∧ c.maxLen.toNat < 7) ∧
    (let c := (configured fun c =>
        { c with fMode := .generic, fcfgSet := 0b1111, lfOff := 65539, lfLen := 4 }).csr;
      c.fMode = .generic ∧ State.reset.params.bufsz < c.lfOff.toNat + c.lfLen.toNat) := by decide

/-- The framer with the pushed byte consumed, as the statement computes it. -/
def consumed (s : State) (byte : Byte) : Framer :=
  { s.fr with
    fpos := s.fr.fpos + 1
    fhdr := if s.fr.fpos < s.fr.cfg.e then Memory.write s.fr.fhdr s.fr.fpos byte else s.fr.fhdr
    fbuf := if s.fr.cfg.strip.toNat ≤ s.fr.fpos then Memory.write s.fr.fbuf s.fr.flen byte
      else s.fr.fbuf
    flen := if s.fr.cfg.strip.toNat ≤ s.fr.fpos then s.fr.flen + 1 else s.fr.flen }

/-- The framer of `midHeader` with MAXLEN latched as `n`. -/
def cappedHeader (n : BitVec 17) : State :=
  { midHeader with fr := { midHeader.fr with cfg := { midHeader.fr.cfg with maxLen := n } } }

/-- The framer of `genericHeader` with other adjustment and no stripping. -/
def adjustedHeader (adj : Word) : State :=
  { genericHeader with
    fr := { genericHeader.fr with cfg := { genericHeader.fr.cfg with lfAdj := adj, strip := 0 } } }

theorem witness_FpushConsumesOneByte :
    State.reset.fr.fst = .off ∧ packetReady.fr.fst = .ready ∧
    (midBody.fr.fst = .body ∧ midBody.fr.fpos + 1 = midBody.fr.ftot) ∧
    (let s := { midBody with fr := { midBody.fr with ftot := 8 } };
      s.fr.fst = .body ∧ s.fr.fpos + 1 ≠ s.fr.ftot) ∧
    (let s := { midHeader with fr := { midHeader.fr with fpos := 4 } };
      s.fr.fst = .header ∧ s.fr.fpos + 1 ≠ s.fr.cfg.e) ∧
    (midHeader.fr.fst = .header ∧ midHeader.fr.fpos + 1 = midHeader.fr.cfg.e ∧
      framerResolve (consumed midHeader 0) = ((7 : Nat) : Int) ∧ midHeader.fr.cfg.e ≤ 7 ∧
      midHeader.fr.cfg.strip.toNat ≤ 7 ∧ 7 ≤ midHeader.fr.cfg.maxLen.toNat ∧
      7 ≠ midHeader.fr.cfg.e) ∧
    (framerResolve (consumed (cappedHeader 7) 1) = ((8 : Nat) : Int) ∧
      (cappedHeader 7).fr.cfg.maxLen.toNat < 8) ∧
    (framerResolve (consumed (adjustedHeader 0xFFFFFFFD) 0) < ((adjustedHeader 0xFFFFFFFD).fr.cfg.e : Int)) ∧
    (framerResolve (consumed (adjustedHeader 0xFFFFFFFE) 0) = ((4 : Nat) : Int) ∧
      (adjustedHeader 0xFFFFFFFE).fr.cfg.e = 4 ∧
      4 ≤ (adjustedHeader 0xFFFFFFFE).fr.cfg.maxLen.toNat) := by decide

theorem witness_HeaderResolvesToDeclaredTotal :
    midHeader.fr.cfg.mode = .ccsds ∧ genericHeader.fr.cfg.mode = .generic ∧
    genericHeader.fr.cfg.lfOrd = 1 ∧
    { genericHeader.fr.cfg with lfOrd := 0 }.lfOrd = 0 ∧ (4 : Word).toNat < 2 ^ 31 ∧
    ¬ (0x80000000 : Word).toNat < 2 ^ 31 := by decide

theorem witness_FeofAndFrstTurnTheFramerOff :
    (midBody.fr.fst = .body ∧ 0 < midBody.fr.fpos) ∧
    (let s := { midHeader with fr := { midHeader.fr with fpos := 0 } };
      s.fr.fst = .header ∧ s.fr.fpos = 0) ∧
    State.reset.fr.fst = .off ∧ packetReady.fr.fst = .ready := by decide

theorem witness_FtakeDeliversThePacket :
    (packetReady.fr.fst = .ready ∧ 6 < packetReady.fr.flen ∧ packetReady.fr.cfg.mode ≠ .fixed) ∧
    (let s := { packetReady with
        fr := { packetReady.fr with cfg := { packetReady.fr.cfg with mode := .fixed } } };
      s.fr.fst = .ready ∧ s.fr.cfg.mode = .fixed) ∧ midBody.fr.fst ≠ .ready := by decide

theorem witness_FixedFramingDeliversTheBytes :
    let s := configured fun c => { c with fMode := .fixed, pktSize := 4 }
    let bytes : List Byte := [0xDE, 0xAD, 0xBE, 0xEF]
    s.csr.fMode = .fixed ∧ bytes.length = s.csr.pktSize.toNat ∧ 1 ≤ bytes.length ∧ 0 < 3 ∧
    3 ≤ bytes.length := by decide

theorem witness_CcsdsFramingDeliversTheBytes :
    let s := configured fun c => { c with fMode := .ccsds, maxLen := 7 }
    let bytes : List Byte := [0x08, 0x05, 0xC0, 0x0A, 0x00, 0x00, 0x77]
    s.csr.fMode = .ccsds ∧ bytes[4]? = some 0x00 ∧ bytes[5]? = some 0x00 ∧
    bytes.length = (0 : Byte).toNat * 256 + (0 : Byte).toNat + 7 ∧
    bytes.length ≤ s.csr.maxLen.toNat := by decide

/-- The stream of R171's example, big-endian, and of P3, little-endian; and a strip of the whole. -/
theorem witness_GenericFramingDeliversTheBytes :
    ∀ x ∈ [((0 : BitVec 1), (6 : Word), [(0xAA : Byte), 0xBB, 0x00, 0x06, 0x11, 0x22, 0x33, 0x44, 0x55, 0x66]),
        (1, 6, [0xAA, 0xBB, 0x06, 0x00, 0x11, 0x22, 0x33, 0x44, 0x55, 0x66]),
        (1, 10, [0xAA, 0xBB, 0x06, 0x00, 0x11, 0x22, 0x33, 0x44, 0x55, 0x66])],
      let s := configured fun c =>
        { c with fMode := .generic, fcfgSet := 0b1111, lfOff := 2, lfLen := 2, lfOrd := x.1, lfAdj := 4,
                 strip := x.2.1, maxLen := 10 }
      s.csr.fMode = .generic ∧ s.csr.fcfgSet = 0b1111 ∧ 1 ≤ s.csr.lfLen.toNat ∧
      s.csr.lfOff.toNat + s.csr.lfLen.toNat ≤ s.params.bufsz ∧
      s.csr.lfOff.toNat + s.csr.lfLen.toNat ≤ x.2.2.length ∧ s.csr.strip.toNat ≤ x.2.2.length ∧
      x.2.2.length ≤ s.csr.maxLen.toNat ∧
      (x.2.2.length : Int) =
        ((if s.csr.lfOrd = 0 then
            bigEndian ((x.2.2.drop s.csr.lfOff.toNat).take s.csr.lfLen.toNat)
          else littleEndian ((x.2.2.drop s.csr.lfOff.toNat).take s.csr.lfLen.toNat) : Nat) : Int) +
          s.csr.lfAdj.toInt := by decide

theorem witness_FramerMovesAsListed :
    (∃ t, exec .frst { midHeader with fr := { midHeader.fr with fst := .fault } } = .next t ∧
      t.fr.fst ≠ .fault) ∧ ∃ t, exec (.fpush 0x77) midBody = .next t ∧ t.fr.fst ≠ midBody.fr.fst :=
  ⟨⟨_, rfl, by decide⟩, _, rfl, by decide⟩

theorem witness_SeqchkComparesWithTheLastCount :
    seqGet { State.reset with rxSeq := [(7, 16383)] }.rxSeq 7 = some 16383 ∧
    seqGet State.reset.rxSeq 7 = none ∧ (8 : Apid) ≠ 7 := by decide

theorem witness_ConsecutiveCountsNeverGap : seqGet State.reset.rxSeq 5 = none := rfl

theorem witness_SeqnextAssignsTheNextCount :
    seqGet { State.reset with txSeq := [(100, 16383)] }.txSeq 100 = some 16383 ∧
    seqGet State.reset.txSeq 100 = none ∧ (3 : Apid) ≠ 100 := by decide

theorem witness_RxprocDropsShortPackets :
    { State.reset with len := 15 }.len < State.reset.csr.rxMin.toNat := by decide

/-- The invariant of a state with a packet, table entries and a framer in the middle of a header. -/
theorem witness_StateInv :
    StateInv { loaded telemetry with
      rxSeq := [(5, 9), (2047, 16383)], txSeq := [(0, 0)], event := 0x9F
      csr := midHeader.csr, fr := midHeader.fr } :=
  ⟨by decide, ⟨by decide, by decide, by decide⟩, ⟨by decide, by decide⟩, ⟨by decide, by decide⟩,
    ⟨by decide, by decide, by decide, by decide, by decide, by decide, by decide⟩,
    ⟨⟨by decide, by decide⟩, ⟨by decide, by decide⟩,
      ⟨rfl, rfl, by decide, by decide⟩, by decide, by decide, rfl, by decide⟩, by decide⟩

theorem reset_csr_inv : CsrInv State.reset.params State.reset.csr :=
  ⟨by decide, by decide, by decide, by decide, by decide, by decide, by decide⟩

/-- A packet in the reset state meets the invariant. -/
theorem loaded_inv (bytes : List Byte) (hw : Memory.wf (memoryOf 0 bytes) = true)
    (hl : ∀ c ∈ memoryOf 0 bytes, c.1 < bytes.length) (hn : bytes.length ≤ 65542) :
    StateInv (loaded bytes) :=
  ⟨show Params.defaults.Legal by decide, ⟨hw, hl, hn⟩, ⟨rfl, nofun⟩, ⟨rfl, nofun⟩, reset_csr_inv,
    ⟨⟨rfl, nofun⟩, ⟨rfl, nofun⟩, rfl, rfl, rfl⟩, (by decide : (0 : Byte) &&& 0x60 = 0)⟩

theorem witness_RxprocReportsThePacket :
    StateInv (loaded telemetry) ∧ (loaded telemetry).csr.rxMin.toNat ≤ (loaded telemetry).len :=
  ⟨loaded_inv _ (by decide) (by decide) (by decide), by decide⟩

theorem witness_TxprocRefusesUnfitPackets :
    (loaded [1, 2, 3, 4, 5]).len < 6 ∧
    (let s := { State.reset with len := 65542, buf := [(0, 0x08), (11, 0x20)] };
      6 ≤ s.len ∧ s.params.bufsz < (txLengths s).2.2) ∧
    (6 ≤ (loaded [0, 1, 2, 3, 4, 5]).len ∧
      (txLengths (loaded [0, 1, 2, 3, 4, 5])).2.2 ≤ State.reset.params.bufsz ∧
      (txLengths (loaded [0, 1, 2, 3, 4, 5])).2.2 < 7) := by decide

theorem witness_TxprocStampsThePacket :
    StateInv (loaded command) ∧ 6 ≤ (loaded command).len ∧
    (txLengths (loaded command)).2.2 ≤ (loaded command).params.bufsz ∧
    7 ≤ (txLengths (loaded command)).2.2 :=
  ⟨loaded_inv _ (by decide) (by decide) (by decide), by decide, by decide, by decide⟩

theorem witness_TxprocKeepsPlainCommands :
    let s := loaded [0x10, 0x64, 0xC0, 0x00, 0x00, 0x03, 0xAA, 0xBB, 0xCC, 0xDD]
    s.params.Legal ∧ s.len ≤ s.params.bufsz ∧ 7 ≤ s.len ∧ ¬ PacketHasShf s ∧
    s.csr.txMin.toNat ≤ s.len ∧ (s.csr.txCtl = 0 ∨ s.len % 2 = 0) ∧
    byteAt s 4 * 256 + byteAt s 5 = s.len - 7 := by decide

theorem witness_StampedCommandIsReceivedIntact :
    StateInv (loaded command) ∧
    ∃ t w, exec (.txproc 0x9A 0x12345678) (loaded command) = .next t ∧ t.rsp = some w ∧
      errField w = 0 ∧ t.tx.flags.getLsbD 1 = true ∧ t.csr.rxMin.toNat ≤ t.len :=
  ⟨loaded_inv _ (by decide) (by decide) (by decide), _, _, rfl, rfl, by decide +kernel,
    by decide +kernel, by decide +kernel⟩

theorem witness_ErrorsArePrecise :
    (∃ t w, exec .feof midHeader = .next t ∧ t.rsp = some w ∧ errField w ≠ 0) ∧
    (∃ t w, exec (.fpush 0) (adjustedHeader 0xFFFFFFFD) = .next t ∧ t.rsp = some w ∧ errField w ≠ 0) ∧
    (∃ t w, exec .finit State.reset = .next t ∧ t.rsp = some w ∧ errField w ≠ 0) ∧
    ∃ t w, exec (.rdb 0) State.reset = .next t ∧ t.rsp = some w ∧ errField w ≠ 0 :=
  ⟨⟨_, _, rfl, rfl, by decide⟩, ⟨_, _, rfl, rfl, by decide⟩, ⟨_, _, rfl, rfl, by decide⟩,
    _, _, rfl, rfl, by decide⟩

theorem witness_OnlyListedErrorsAreRaised :
    StateInv (loaded telemetry) ∧
    ∃ t w, exec (.rdb 20) (loaded telemetry) = .next t ∧ t.rsp = some w ∧ errField w ≠ 0 :=
  ⟨loaded_inv _ (by decide) (by decide) (by decide), _, _, rfl, rfl, by decide⟩

theorem witness_EventFlagsAreSticky :
    ∃ t, exec (.csrw 0x18 0x82) { State.reset with event := 0x86 } = .next t ∧
      ({ State.reset with event := 0x86 }.event).getLsbD 7 = true ∧ t.event.getLsbD 7 = false :=
  ⟨_, rfl, by decide, by decide⟩

theorem witness_StateIsReachedOnlyByItsCommands :
    (∃ t, exec (.seqchk 1 2) State.reset = .next t ∧ t.rxSeq ≠ State.reset.rxSeq) ∧
    (∃ t, exec (.seqnext 1) State.reset = .next t ∧ t.txSeq ≠ State.reset.txSeq) ∧
    (∃ t, exec (.csrw 1 0) State.reset = .next t ∧ t.csr ≠ State.reset.csr) ∧
    (∃ t, exec .rxproc State.reset = .next t ∧ t.rx ≠ State.reset.rx) ∧
    (∃ t, exec (.txproc 0 0) (loaded [0, 1, 2, 3, 4, 5, 6]) = .next t ∧
      t.tx ≠ (loaded [0, 1, 2, 3, 4, 5, 6]).tx) ∧
    (∃ t, exec (.fpush 0) midHeader = .next t ∧ t.fr ≠ midHeader.fr) ∧
    ∃ t, exec (.appb 0) State.reset = .next t ∧ t.len ≠ State.reset.len :=
  ⟨⟨_, rfl, by decide⟩, ⟨_, rfl, by decide⟩, ⟨_, rfl, by decide⟩, ⟨_, rfl, by decide⟩,
    ⟨_, rfl, by decide⟩, ⟨_, rfl, by decide⟩, _, rfl, by decide⟩

theorem witness_ReadingCommandsAreIdempotent :
    (∃ t, exec (.sum16 0 3) (loaded telemetry) = .next t ∧ t.event = 0x80) ∧
    ∃ t, exec .gapid (loaded telemetry) = .next t ∧ t.event = 0 :=
  ⟨⟨_, rfl, by decide⟩, _, rfl, by decide⟩

theorem witness_ResetMeetsTheInvariant : Params.defaults.Legal ∧ smallBuild.Legal := by decide

theorem witness_EveryStepKeepsTheInvariant :
    StateInv (loaded telemetry) ∧
      ∃ t, step ((loaded telemetry).withFetchWord 64 0x5000000000000000) = .next t :=
  ⟨loaded_inv _ (by decide) (by decide) (by decide), _, rfl⟩

end Sys2Proof.Tests
end

/-! The state after reset (10_state.md R52) part by part, and that it meets the invariant in every legal
build (00_scope.md R5). -/

namespace Sys2Proof.Machine

/-- 17 bits hold every length up to BUFSZ of a legal build (R5, R30). -/
theorem toNat_ofNat17_of_le_bufsz {p : Params} (hp : p.Legal) {n : Nat} (hn : n ≤ p.bufsz) :
    (BitVec.ofNat 17 n).toNat = n := by
  obtain ⟨⟨-, hbufsz⟩, -⟩ := hp
  rw [BitVec.toNat_ofNat, Nat.mod_eq_of_lt (by omega)]

/-- The reset values of the control registers meet their invariant (R30). LFLEN is 0 there, below its
range on write, which is allowed while FCFGSET does not mark it as set (R46). -/
theorem csrInv_atReset {p : Params} (hp : p.Legal) : CsrInv p (Csr.atReset p) := by
  have ⟨_, _, _, _, _, hfloor, hrxmin⟩ := hp
  have hrxMin : (Csr.atReset p).rxMin.toNat = p.rxminReset := toNat_ofNat17_of_le_bufsz hp hrxmin
  have hmaxLen : (Csr.atReset p).maxLen.toNat = p.bufsz := toNat_ofNat17_of_le_bufsz hp le_rfl
  have hunset : (Csr.atReset p).fcfgSet.getLsbD 1 = false := BitVec.getLsbD_zero
  refine ⟨?rxMin, Nat.zero_le _, Nat.zero_le _, ?maxLen, Nat.zero_le _, Nat.zero_le _, ?lfLen⟩
  case rxMin => rw [hrxMin]; exact ⟨hfloor, hrxmin⟩
  case maxLen => exact hmaxLen.le
  case lfLen => rw [hunset]; exact nofun

/-- The framer after reset is coherent: OFF, with every counter 0 and nothing listed (R52). -/
theorem framerInv_atReset (p : Params) : FramerInv p Framer.atReset :=
  ⟨⟨memory_wf_nil, nofun⟩, ⟨memory_wf_nil, nofun⟩, rfl, rfl, rfl⟩

/-- An empty packet buffer is canonical and within any capacity. -/
theorem bufInv_of_empty {s : State} (hbuf : s.buf = []) (hlen : s.len = 0) : BufInv s := by
  refine ⟨?_, ?_, ?_⟩
  · rw [hbuf]; exact memory_wf_nil
  · rw [hbuf]; exact nofun
  · rw [hlen]; exact Nat.zero_le _

/-- Settles O57, part by part: the buffer, both tables, the registers, the framer, EVENT. -/
theorem resetMeetsTheInvariant : Obligations.ResetMeetsTheInvariant := by
  intro p hp
  exact ⟨hp, bufInv_of_empty rfl rfl, tableInv_nil, tableInv_nil, csrInv_atReset hp,
    framerInv_atReset p, BitVec.zero_and⟩

end Sys2Proof.Machine

/-! What a step asks of the port (10_state.md R40, 20_memory.md R66) and the two statements about a single
sample. -/

namespace Sys2Proof.Machine

/-- Taking the head sample leaves the rest of the list. -/
theorem portTaken_of_cons {s : State} {p : PortSample} {rest : List PortSample}
    (hport : s.port = p :: rest) : portTaken s = { s with port := rest } := by
  rw [portTaken, hport, List.tail_cons]

/-- With no sample left there is none to take. -/
theorem portTaken_of_nil {s : State} (hport : s.port = []) : portTaken s = s := by
  rw [portTaken, hport, List.tail_nil, ← hport]

theorem portRequest_of_command {s : State} {w : PortWord} {rest : List PortSample}
    (hport : s.port = commandSample w :: rest) : portRequest s = .command w := by
  simp [portRequest, hport, commandSample]

theorem portRequest_of_nil {s : State} (hport : s.port = []) : portRequest s = .idle := by
  simp [portRequest, hport]

theorem portRequest_of_no_command {s : State} {p : PortSample} {rest : List PortSample}
    (hport : s.port = p :: rest) (hrst : p.rst = false) (hvalid : p.cmdValid = false) :
    portRequest s = .idle := by
  simp [portRequest, hport, hrst, hvalid]

theorem step_of_idle {s : State} (h : portRequest s = .idle) : step s = portIdle (portTaken s) := by
  simp [step, h]

theorem step_of_reset {s : State} (h : portRequest s = .reset) :
    step s = portReset (portTaken s) := by
  simp [step, h]

theorem step_of_command {s : State} {w : PortWord} {i : Instr} (h : portRequest s = .command w)
    (hw : decode w = .ok i) : step s = exec i (portTaken s) := by
  simp [step, h, hw]

theorem step_of_illegal {s : State} {w : PortWord} {e : DecodeError}
    (h : portRequest s = .command w) (hw : decode w = .error e) :
    step s = portIllegal (portTaken s) := by
  simp [step, h, hw]

/-- Everything a step can be, on the state with the head sample taken. -/
theorem step_cases (s : State) :
    step s = portIdle (portTaken s) ∨ step s = portReset (portTaken s) ∨
      step s = portIllegal (portTaken s) ∨ ∃ i, step s = exec i (portTaken s) := by
  cases h : portRequest s with
  | idle => exact .inl (step_of_idle h)
  | reset => exact .inr (.inl (step_of_reset h))
  | command w =>
    cases hw : decode w with
    | error e => exact .inr (.inr (.inl (step_of_illegal h hw)))
    | ok i => exact .inr (.inr (.inr ⟨i, step_of_command h hw⟩))

/-- Settles O5: the head sample is a request for its word, and taking it leaves the rest. -/
theorem stepRunsTheDecodedCommand : Obligations.StepRunsTheDecodedCommand := by
  intro s w rest i hport hdecode
  rw [step_of_command (portRequest_of_command hport) hdecode, portTaken_of_cons hport]

/-- Settles O7: both ports ask for nothing, and the step takes the sample where there is one. -/
theorem noCommandChangesNothing : Obligations.NoCommandChangesNothing := by
  refine fun s => ⟨fun hport => ?noSample, fun p rest hport hrst hvalid => ?noCommand⟩
  case noSample => rw [step_of_idle (portRequest_of_nil hport), portTaken_of_nil hport, portIdle]
  case noCommand =>
    rw [step_of_idle (portRequest_of_no_command hport hrst hvalid), portTaken_of_cons hport, portIdle]

end Sys2Proof.Machine

/-! What each command can do to the state besides its response, as one relation, and that every command
answers one response on a state so reached. Proofs about all commands go through these cases instead of
opening the commands again. -/

namespace Sys2Proof.Machine

/-- The changes commands make before they respond: what `i`, run from `s`, leaves is some `u` with
`CommandEffect s i u`, but for the response and, on an error, EVENT.ERR (`exec_answers`). An upper bound:
the four stores into BUF and the stopping of the framer are not tied to the commands that do them. -/
inductive CommandEffect (s : State) : Instr → State → Prop
  /-- A command that only reads, or one that raises before its first write. -/
  | unchanged (i : Instr) : CommandEffect s i s
  | reset : CommandEffect s .srst (resetState s)
  | storeCsr {n : BitVec 24} {r : CsrName} {v : Word} (hnum : csrOfNum n = some r)
      (hlegal : csrLegal s.params r v = true) :
      CommandEffect s (.csrw n v) { s with csr := csrStore s.csr r v }
  | clearFlags {n : BitVec 24} {v : Word} (hnum : csrOfNum n = some .event) :
      CommandEffect s (.csrw n v) { s with event := clearEvent v s.event }
  | resize {n : Word} (hcap : n.toNat ≤ s.params.bufsz) :
      CommandEffect s (.setlen n) (setLength s n.toNat)
  | append {byte : Byte} (hcap : s.len < s.params.bufsz) :
      CommandEffect s (.appb byte)
        { s with buf := Memory.write s.buf s.len byte, len := s.len + 1 }
  | storeByte (i : Instr) {a : Nat} {v : Byte} (hfit : a + 1 ≤ s.len) :
      CommandEffect s i { s with buf := Memory.write s.buf a v }
  | storeHalf (i : Instr) {a : Nat} {v : Half} (hfit : a + 2 ≤ s.len) :
      CommandEffect s i { s with buf := Memory.write2 s.buf a v }
  | storeWord (i : Instr) {a : Nat} {v : Word} (hfit : a + 4 ≤ s.len) :
      CommandEffect s i { s with buf := Memory.write4 s.buf a v }
  | storeHeader (i : Instr) {w : Word} {v : Half} (hfit : 6 ≤ s.len) :
      CommandEffect s i { s with buf := Memory.write2 (Memory.write4 s.buf 0 w) 4 v }
  /-- FINIT whose construction check fails, FEOF, FRST (43_framer.md R162, R165, R167). -/
  | stopFramer (i : Instr) : CommandEffect s i { s with fr := framerOff s.fr }
  | startFramer {e : Nat} (hcheck : finitHeader s.params.bufsz s.csr = some e) :
      CommandEffect s .finit { s with fr := framerRestart { s.fr with cfg := finitLatch s.csr e } }
  /-- FPUSH whose byte completes a header with a bad length (R163). -/
  | refusePush {byte : Byte} {e : ErrCode} (hst : s.fr.fst = .header ∨ s.fr.fst = .body)
      (hhdr : framerHeader (framerConsume byte s.fr) = .error e) :
      CommandEffect s (.fpush byte) { s with fr := { framerConsume byte s.fr with fst := .fault } }
  /-- FPUSH whose byte completes the packet (R163). -/
  | completePush {byte : Byte} {f : Framer} (hst : s.fr.fst = .header ∨ s.fr.fst = .body)
      (hhdr : framerHeader (framerConsume byte s.fr) = .ok f) (hdone : framerComplete f = true) :
      CommandEffect s (.fpush byte) { s with fr := { f with fst := .ready } }
  /-- FPUSH of a byte after which more are awaited (R163). -/
  | acceptPush {byte : Byte} {f : Framer} (hst : s.fr.fst = .header ∨ s.fr.fst = .body)
      (hhdr : framerHeader (framerConsume byte s.fr) = .ok f) (hmore : framerComplete f = false) :
      CommandEffect s (.fpush byte) { s with fr := f }
  | takePacket (hst : s.fr.fst = .ready) :
      CommandEffect s .ftake
        { s with buf := Memory.below s.fr.fbuf s.fr.flen, len := s.fr.flen
                 fr := framerRestart s.fr }
  | dropPacket : CommandEffect s .rxproc (rxDrop s)
  | receivePacket (w0 w1 : Half) (coarse : Word) (fine : Byte) :
      CommandEffect s .rxproc (rxFinish s w0 w1 coarse fine)
  | trackReceived (apid : Apid) (seq : SeqCount) :
      CommandEffect s (.seqchk apid seq)
        { s with rxSeq := seqSet s.rxSeq apid seq
                 event := setEvent (seqGap s.rxSeq apid seq) evSeqGap s.event }
  | sendPacket {fine : Byte} {coarse : Word} (hcap : txLen3 s ≤ s.params.bufsz)
      (hmin : 7 ≤ txLen3 s) : CommandEffect s (.txproc fine coarse) (txFinish fine coarse s)
  | countSent (apid : Apid) (seq : SeqCount) :
      CommandEffect s (.seqnext apid) { s with txSeq := seqSet s.txSeq apid seq }

/-- `r` is a single response, OK or an error, on a state that `i` can lead to from `s`. -/
def Answers (i : Instr) (s : State) (r : Result) : Prop :=
  ∃ u, CommandEffect s i u ∧
    ((∃ v, r = .next (answered v u)) ∨ ∃ e, r = .next (failed (errCode e).toNat u))

variable {i : Instr} {s : State}

theorem answers_respond {u : State} (v : Word) (h : CommandEffect s i u) :
    Answers i s (respond v u) := ⟨u, h, .inl ⟨v, respond_eq v u⟩⟩

theorem answers_raise {u : State} (e : ErrCode) (h : CommandEffect s i u) :
    Answers i s (raise e u) := ⟨u, h, .inr ⟨e, raise_eq e u⟩⟩

theorem answers_finishRead (r : Except ErrCode Word) : Answers i s (finishRead r s) := by
  cases r with
  | ok v => exact answers_respond v (.unchanged i)
  | error e => exact answers_raise e (.unchanged i)

theorem answers_finishWrite {r : Except ErrCode State}
    (h : ∀ u, r = .ok u → CommandEffect s i u) : Answers i s (finishWrite r s) := by
  cases r with
  | ok u => exact answers_respond 0 (h u rfl)
  | error e => exact answers_raise e (.unchanged i)

theorem answers_write1 (a : Nat) (v : Byte) : Answers i s (finishWrite (memWrite1 s a v) s) := by
  refine answers_finishWrite fun u hu => ?_
  by_cases hfit : a + 1 ≤ s.len
  · rw [memWrite1_ok v hfit] at hu
    cases hu
    exact .storeByte i hfit
  · rw [memWrite1_error v (by omega)] at hu
    cases hu

theorem answers_write2 (a : Nat) (v : Half) : Answers i s (finishWrite (memWrite2 s a v) s) := by
  refine answers_finishWrite fun u hu => ?_
  by_cases hfit : a + 2 ≤ s.len
  · rw [memWrite2_ok v hfit] at hu
    cases hu
    exact .storeHalf i hfit
  · rw [memWrite2_error v (by omega)] at hu
    cases hu

theorem answers_write4 (a : Nat) (v : Word) : Answers i s (finishWrite (memWrite4 s a v) s) := by
  refine answers_finishWrite fun u hu => ?_
  by_cases hfit : a + 4 ≤ s.len
  · rw [memWrite4_ok v hfit] at hu
    cases hu
    exact .storeWord i hfit
  · rw [memWrite4_error v (by omega)] at hu
    cases hu

/-- A field update writes only where its read was in bounds. -/
theorem answers_update1 (a : Nat) (f : Byte → Byte) :
    Answers i s (finishWrite (memUpdate1 s a f) s) := by
  unfold memUpdate1
  split
  · exact answers_write1 a _
  · exact answers_raise _ (.unchanged i)

theorem answers_update2 (a : Nat) (f : Half → Half) :
    Answers i s (finishWrite (memUpdate2 s a f) s) := by
  unfold memUpdate2
  split
  · exact answers_write2 a _
  · exact answers_raise _ (.unchanged i)

theorem answers_overRange (off : BitVec 24) (n : Word) (f : List Byte → Half) :
    Answers i s (overRange off n f s) := by
  unfold overRange
  split
  · exact answers_respond _ (.unchanged i)
  · exact answers_raise _ (.unchanged i)

/-- Everything a write to a control register can be (10_state.md R31, R243). -/
theorem csrWrite_cases (s : State) (r : CsrName) (v : Word) :
    (∃ e, csrWrite s r v = .error e) ∨
      (r = .event ∧ csrWrite s r v = .ok { s with event := clearEvent v s.event }) ∨
      (r ≠ .event ∧ csrLegal s.params r v = true ∧
        csrWrite s r v = .ok { s with csr := csrStore s.csr r v }) := by
  unfold csrWrite
  split_ifs with _ hevent hlegal
  · exact .inl ⟨_, rfl⟩
  · exact .inr (.inl ⟨hevent, rfl⟩)
  · exact .inr (.inr ⟨hevent, hlegal, rfl⟩)
  · exact .inl ⟨_, rfl⟩

theorem execCsrr_of_num {n : BitVec 24} {r : CsrName} (hnum : csrOfNum n = some r) (s : State) :
    execCsrr n s = .next (answered (csrRead s r) s) := by
  simp [execCsrr, hnum, respond_eq]

theorem execCsrw_of_num {n : BitVec 24} {r : CsrName} (hnum : csrOfNum n = some r) (v : Word)
    (s : State) : execCsrw n v s = finishWrite (csrWrite s r v) s := by
  simp [execCsrw, hnum]

theorem execCsrw_of_no_num {n : BitVec 24} (hnum : csrOfNum n = none) (v : Word) (s : State) :
    execCsrw n v s = raise .illegal s := by
  simp [execCsrw, hnum]

theorem answers_csrr (n : BitVec 24) : Answers (.csrr n) s (execCsrr n s) := by
  unfold execCsrr
  split
  · exact answers_respond _ (.unchanged _)
  · exact answers_raise _ (.unchanged _)

theorem answers_csrw (n : BitVec 24) (v : Word) : Answers (.csrw n v) s (execCsrw n v s) := by
  cases hnum : csrOfNum n with
  | none =>
    rw [execCsrw_of_no_num hnum]
    exact answers_raise _ (.unchanged _)
  | some r =>
    rw [execCsrw_of_num hnum]
    refine answers_finishWrite fun u hu => ?_
    obtain ⟨e, he⟩ | ⟨rfl, hok⟩ | ⟨-, hlegal, hok⟩ := csrWrite_cases s r v
    · cases he.symm.trans hu
    · cases hok.symm.trans hu
      exact .clearFlags hnum
    · cases hok.symm.trans hu
      exact .storeCsr hnum hlegal

theorem answers_setlen (n : Word) : Answers (.setlen n) s (execSetlen n s) := by
  unfold execSetlen
  split_ifs with hcap
  · exact answers_raise _ (.unchanged _)
  · exact answers_respond _ (.resize (not_lt.1 hcap))

theorem answers_appb (byte : Byte) : Answers (.appb byte) s (execAppb byte s) := by
  unfold execAppb
  split_ifs with hcap
  · exact answers_raise _ (.unchanged _)
  · exact answers_respond _ (.append (not_le.1 hcap))

theorem answers_sum16 (off : BitVec 24) (n : Word) :
    Answers (.sum16 off n) s (execSum16 off n s) := by
  unfold execSum16
  split
  · exact answers_raise _ (.unchanged _)
  · exact answers_overRange _ _ _

theorem answers_cksum (off : BitVec 24) (n : Word) :
    Answers (.cksum off n) s (execCksum off n s) := by
  unfold execCksum
  split
  · exact answers_raise _ (.unchanged _)
  · exact answers_overRange _ _ _

theorem answers_shdr (type shf : BitVec 1) (apid : Apid) (seqf : BitVec 2) (seq : SeqCount) :
    Answers (.shdr type shf apid seqf seq) s (execShdr type shf apid seqf seq s) := by
  unfold execShdr
  split_ifs with hbounds
  · exact answers_raise _ (.unchanged _)
  · exact answers_raise _ (.unchanged _)
  · exact answers_respond _ (.storeHeader _ (not_lt.1 hbounds))

theorem answers_finit : Answers .finit s (execFinit s) := by
  unfold execFinit
  split
  next => exact answers_raise _ (.stopFramer _)
  next hcheck => exact answers_respond _ (.startFramer hcheck)

theorem answers_fpush (byte : Byte) : Answers (.fpush byte) s (execFpush byte s) := by
  unfold execFpush
  split
  next hst =>
    split
    next hhdr => exact answers_raise _ (.refusePush hst hhdr)
    next hhdr =>
      split
      next hdone => exact answers_respond _ (.completePush hst hhdr hdone)
      next hmore => exact answers_respond _ (.acceptPush hst hhdr (Bool.eq_false_of_not_eq_true hmore))
  next => exact answers_raise _ (.unchanged _)

theorem answers_feof : Answers .feof s (execFeof s) := by
  unfold execFeof
  split_ifs
  · exact answers_raise _ (.stopFramer _)
  · exact answers_respond _ (.stopFramer _)
  · exact answers_raise _ (.unchanged _)

theorem answers_ftake : Answers .ftake s (execFtake s) := by
  unfold execFtake
  split
  next hst => exact answers_respond _ (.takePacket hst)
  next => exact answers_raise _ (.unchanged _)

theorem answers_rxproc : Answers .rxproc s (execRxproc s) := by
  unfold execRxproc
  split
  · exact answers_respond _ .dropPacket
  · split
    · exact answers_raise _ (.unchanged _)
    · exact answers_respond _ (.receivePacket _ _ _ _)

theorem answers_txproc (fine : Byte) (coarse : Word) :
    Answers (.txproc fine coarse) s (execTxproc fine coarse s) := by
  unfold execTxproc
  split_ifs with _ hcap hmin
  · exact answers_raise _ (.unchanged _)
  · exact answers_raise _ (.unchanged _)
  · exact answers_raise _ (.unchanged _)
  · exact answers_respond _ (.sendPacket (not_lt.1 hcap) (not_lt.1 hmin))

/-- Every command answers, and what it did before is one of the cases of `CommandEffect`. -/
theorem exec_answers (i : Instr) (s : State) : Answers i s (exec i s) := by
  cases i with
  | nop => exact answers_respond _ (.unchanged _)
  | srst => exact answers_respond _ .reset
  | csrr csrno => exact answers_csrr csrno
  | csrw csrno v32 => exact answers_csrw csrno v32
  | setlen n => exact answers_setlen n
  | rdlen => exact answers_respond _ (.unchanged _)
  | rdb off => exact answers_finishRead _
  | wrb off byte => exact answers_write1 _ _
  | appb byte => exact answers_appb byte
  | sum16 off n => exact answers_sum16 off n
  | crc16 off n => exact answers_overRange _ _ _
  | flet16 off n => exact answers_overRange _ _ _
  | cksum off n => exact answers_cksum off n
  | gver | gtype | gshf | gapid | gseqf | gseq | glenf | gplen => exact answers_finishRead _
  | gcoarse | gfine | gcki => exact answers_finishRead _
  | sver | stype | sshf | sapid | sseqf | sseq => exact answers_update2 _ _
  | slenf lenf => exact answers_write2 _ _
  | shdr type shf apid seqf seq => exact answers_shdr type shf apid seqf seq
  | scoarse coarse => exact answers_write4 _ _
  | sfine fine => exact answers_write1 _ _
  | scki cki => exact answers_update1 _ _
  | finit => exact answers_finit
  | fpush byte => exact answers_fpush byte
  | feof => exact answers_feof
  | ftake => exact answers_ftake
  | frst => exact answers_respond _ (.stopFramer _)
  | rxproc => exact answers_rxproc
  | seqchk apid seq => exact answers_respond _ (.trackReceived apid seq)
  | seqget apid => exact answers_respond _ (.unchanged _)
  | txproc fine coarse => exact answers_txproc fine coarse
  | seqnext apid => exact answers_respond _ (.countSent apid _)
  | txseqget apid => exact answers_respond _ (.unchanged _)

end Sys2Proof.Machine

/-! Reading a control register after an accepted write (10_state.md R31), and that the event flags are
sticky (R25). -/

namespace Sys2Proof.Machine

/-- A value that fits in `k` bits survives being stored in them and read back zero-extended. -/
theorem setWidth_setWidth_of_lt {k : Nat} {v : Word} (hv : v.toNat < 2 ^ k) :
    (v.setWidth k).setWidth 32 = v := by
  apply BitVec.eq_of_toNat_eq
  rw [BitVec.toNat_setWidth, BitVec.toNat_setWidth, Nat.mod_eq_of_lt hv, Nat.mod_eq_of_lt v.isLt]

theorem ckselCode_ckselOfCode {v : Word} (hv : v.toNat ≤ 2) :
    BitVec.ofNat 32 (ckselCode (ckselOfCode v)) = v := by
  have hcode : ckselCode (ckselOfCode v) = v.toNat := by
    unfold ckselOfCode
    split
    next h => exact h.symm
    next h => exact h.symm
    next h0 h2 =>
      have hne : v.toNat ≠ 0 ∧ v.toNat ≠ 2 := ⟨h0, h2⟩
      show 1 = v.toNat
      omega
  rw [hcode, BitVec.ofNat_toNat, BitVec.setWidth_eq]

theorem fmodeCode_fmodeOfCode {v : Word} (hv : v.toNat ≤ 3) :
    BitVec.ofNat 32 (fmodeCode (fmodeOfCode v)) = v := by
  have hcode : fmodeCode (fmodeOfCode v) = v.toNat := by
    unfold fmodeOfCode
    split
    next h => exact h.symm
    next h => exact h.symm
    next h => exact h.symm
    next h1 h2 h3 =>
      have hne : v.toNat ≠ 1 ∧ v.toNat ≠ 2 ∧ v.toNat ≠ 3 := ⟨h1, h2, h3⟩
      show 0 = v.toNat
      omega
  rw [hcode, BitVec.ofNat_toNat, BitVec.setWidth_eq]

/-- 17 bits hold every value up to BUFSZ of a legal build (00_scope.md R5). -/
theorem lt_of_le_bufsz {p : Params} (hp : p.Legal) {n : Nat} (hn : n ≤ p.bufsz) : n < 2 ^ 17 := by
  obtain ⟨⟨-, hbufsz⟩, -⟩ := hp
  omega

/-- A legal value is read back from the register it was stored in; only EVENT is stored elsewhere. -/
theorem csrRead_csrStore {s : State} {r : CsrName} {v : Word} (hp : s.params.Legal)
    (hr : r ≠ .event) (hlegal : csrLegal s.params r v = true) :
    csrRead { s with csr := csrStore s.csr r v } r = v := by
  cases r with
  | ckSel => exact ckselCode_ckselOfCode (of_decide_eq_true hlegal)
  | fMode => exact fmodeCode_fmodeOfCode (of_decide_eq_true hlegal)
  | crcIv => exact setWidth_setWidth_of_lt (Nat.lt_succ_of_le (of_decide_eq_true hlegal))
  | rxMin =>
    obtain ⟨-, hle⟩ := Bool.and_eq_true_iff.1 hlegal
    exact setWidth_setWidth_of_lt (lt_of_le_bufsz hp (of_decide_eq_true hle))
  | txMin | pktSize | maxLen | lfOff =>
    exact setWidth_setWidth_of_lt (lt_of_le_bufsz hp (of_decide_eq_true hlegal))
  | lfLen =>
    obtain ⟨-, hle⟩ := Bool.and_eq_true_iff.1 hlegal
    exact setWidth_setWidth_of_lt ((of_decide_eq_true hle).trans_lt (by decide))
  | txCtl | lfOrd => exact setWidth_setWidth_of_lt (Nat.lt_succ_of_le (of_decide_eq_true hlegal))
  | lfAdj | strip => rfl
  | event => exact absurd rfl hr
  | fcfgSet | fState | fPos | fTot | fLen => cases hlegal
  | rxFlags | rxSeqId | rxCoarse | rxFine => cases hlegal
  | txFlags | txSeq | txCk | txApid => cases hlegal

/-- Only the number 0x18 names EVENT (R30). -/
theorem eq_of_csrOfNum_event {n : BitVec 24} (hnum : csrOfNum n = some .event) : n = 0x18 := by
  unfold csrOfNum at hnum
  split at hnum <;> cases hnum
  next h => exact BitVec.eq_of_toNat_eq h

/-- A response is no part of what CSRR reads (R30). -/
theorem csrRead_answered (v : Word) (s : State) (r : CsrName) :
    csrRead (answered v s) r = csrRead s r := by
  cases r <;> rfl

/-- An error response is never the word 0 (30_encoding.md R82, 60_exceptions.md R260). -/
theorem failed_rsp_ne_zero (e : ErrCode) (s : State) :
    (failed (errCode e).toNat s).rsp ≠ some 0 := by
  cases e <;> simp [errCode]

/-- A CSRW that answers 0 has stored a legal value in the numbered register or cleared flags. -/
theorem execCsrw_ok_cases {n : BitVec 24} {v : Word} {s t : State}
    (h : execCsrw n v s = .next t) (hok : t.rsp = some 0) :
    (csrOfNum n = some .event ∧ t = answered 0 { s with event := clearEvent v s.event }) ∨
      ∃ r, csrOfNum n = some r ∧ r ≠ .event ∧ csrLegal s.params r v = true ∧
        t = answered 0 { s with csr := csrStore s.csr r v } := by
  cases hnum : csrOfNum n with
  | none =>
    rw [execCsrw_of_no_num hnum, raise_eq] at h
    cases h
    exact absurd hok (failed_rsp_ne_zero _ _)
  | some r =>
    rw [execCsrw_of_num hnum] at h
    obtain ⟨e, hw⟩ | ⟨rfl, hw⟩ | ⟨hr, hlegal, hw⟩ := csrWrite_cases s r v
    · rw [hw, finishWrite_error] at h
      cases h
      exact absurd hok (failed_rsp_ne_zero _ _)
    · rw [hw, finishWrite_ok] at h
      cases h
      exact .inl ⟨rfl, rfl⟩
    · rw [hw, finishWrite_ok] at h
      cases h
      exact .inr ⟨r, rfl, hr, hlegal, rfl⟩

/-- Settles O12: an accepted value was legal, and every register holds its legal values exactly. -/
theorem acceptedCsrValueIsReadBack : Obligations.AcceptedCsrValueIsReadBack := by
  intro s t n v hp hn h hok
  obtain ⟨hnum, -⟩ | ⟨r, hnum, hr, hlegal, rfl⟩ := execCsrw_ok_cases h hok
  · exact absurd (eq_of_csrOfNum_event hnum) hn
  · have hread := csrRead_csrStore hp hr hlegal
    calc exec (.csrr n) (answered 0 { s with csr := csrStore s.csr r v })
        = .next (answered (csrRead (answered 0 { s with csr := csrStore s.csr r v }) r)
            (answered 0 { s with csr := csrStore s.csr r v })) := execCsrr_of_num hnum _
      _ = _ := by rw [csrRead_answered, hread]

/-- Every bit of EVENT that is set in `a` is set in `b` (R25). -/
def EventKept (a b : Byte) : Prop := ∀ k, a.getLsbD k = true → b.getLsbD k = true

theorem eventKept_refl (a : Byte) : EventKept a a := fun _ h => h

theorem eventKept_setEvent {a b : Byte} (h : EventKept a b) (c : Bool) (mask : Byte) :
    EventKept a (setEvent c mask b) := fun k hk => setEvent_sticky c mask b k (h k hk)

/-- What each command can do to EVENT besides setting EVENT.ERR: reset it, clear it by CSRW, or keep
what is set. -/
theorem commandEffect_event {i : Instr} {s u : State} (h : CommandEffect s i u) :
    i = .srst ∨ (∃ v, i = .csrw 0x18 v ∧ u.event = clearEvent v s.event) ∨
      EventKept s.event u.event := by
  cases h with
  | reset => exact .inl rfl
  | clearFlags hnum => exact .inr (.inl ⟨_, by rw [eq_of_csrOfNum_event hnum], rfl⟩)
  | dropPacket => exact .inr (.inr (eventKept_setEvent (eventKept_refl _) _ _))
  | receivePacket =>
    exact .inr (.inr (eventKept_setEvent (eventKept_setEvent (eventKept_setEvent
      (eventKept_refl _) _ _) _ _) _ _))
  | trackReceived => exact .inr (.inr (eventKept_setEvent (eventKept_refl _) _ _))
  | sendPacket =>
    exact .inr (.inr (eventKept_setEvent (eventKept_setEvent (eventKept_refl _) _ _) _ _))
  | unchanged | storeCsr | resize | append | storeByte | storeHalf | storeWord | storeHeader
  | stopFramer | startFramer | refusePush | completePush | acceptPush | takePacket | countSent =>
    exact .inr (.inr (eventKept_refl _))

/-- A flag that is clear after a command was clear before the response: an error only sets EVENT.ERR. -/
theorem Answers.event_clear {i : Instr} {s t : State} {k : Nat} (h : Answers i s (.next t))
    (hclear : t.event.getLsbD k = false) :
    ∃ u, CommandEffect s i u ∧ u.event.getLsbD k = false := by
  obtain ⟨u, heffect, ⟨v, hv⟩ | ⟨e, he⟩⟩ := h
  · cases hv
    exact ⟨u, heffect, hclear⟩
  · cases he
    rw [failed_event, BitVec.getLsbD_or, Bool.or_eq_false_iff] at hclear
    exact ⟨u, heffect, hclear.1⟩

/-- A flag cleared by `clearEvent` has a 1 at its position in the operand (R31). -/
theorem getLsbD_of_clearEvent {v : Word} {a : Byte} {k : Nat} (hset : a.getLsbD k = true)
    (hclear : (clearEvent v a).getLsbD k = false) : v.getLsbD k = true := by
  have hk : k < 8 := BitVec.lt_of_getLsbD hset
  simpa [clearEvent, hset, hk] using hclear

/-- Settles O54, by what each command can do to EVENT. -/
theorem eventFlagsAreSticky : Obligations.EventFlagsAreSticky := by
  intro i s t k hexec hset hclear
  obtain ⟨u, heffect, hu⟩ := (hexec ▸ exec_answers i s).event_clear hclear
  obtain hsrst | ⟨v, hcsrw, hevent⟩ | hkept := commandEffect_event heffect
  · exact .inl hsrst
  · exact .inr ⟨v, hcsrw, getLsbD_of_clearEvent hset (hevent ▸ hu)⟩
  · exact absurd (hkept k hset) (by rw [hu]; decide)

end Sys2Proof.Machine


/-! Canonical buffers within a bound, the common part of the invariants of BUF, FBUF and FHDR
(10_state.md R22, R23; logs 6 and 7): one lemma per memory operation. -/

namespace Sys2Proof.Machine

/-- The memory is canonical and every byte it lists is below `n`. -/
def MemoryFits (m : Memory) (n : Nat) : Prop := Memory.wf m = true ∧ MemoryWithin m n

section
variable {m : Memory} {n a : Nat}

theorem memoryFits_mono {k : Nat} (h : MemoryFits m n) (hk : n ≤ k) : MemoryFits m k :=
  h.imp_right fun hwithin => memoryWithin_mono hwithin hk

theorem memoryFits_below (n : Nat) (h : Memory.wf m = true) : MemoryFits (Memory.below m n) n :=
  ⟨memory_wf_below m n h, memoryWithin_below m n⟩

theorem memoryFits_write {v : Byte} (h : MemoryFits m n) (ha : a < n) :
    MemoryFits (Memory.write m a v) n :=
  h.imp (memory_wf_write m a v) fun hwithin => memoryWithin_write hwithin ha

theorem memoryFits_write2 {v : Half} (h : MemoryFits m n) (ha : a + 1 < n) :
    MemoryFits (Memory.write2 m a v) n :=
  h.imp (memory_wf_write2 m a v) fun hwithin => memoryWithin_write2 hwithin ha

theorem memoryFits_write4 {v : Word} (h : MemoryFits m n) (ha : a + 3 < n) :
    MemoryFits (Memory.write4 m a v) n :=
  h.imp (memory_wf_write4 m a v) fun hwithin => memoryWithin_write4 hwithin ha

end

theorem bufInv_iff (s : State) :
    BufInv s ↔ MemoryFits s.buf s.len ∧ s.len ≤ s.params.bufsz := and_assoc.symm

end Sys2Proof.Machine

/-! The framer's invariant (10_state.md R23, 43_framer.md R161 to R167): what an accepted configuration
gives, and that each thing a command does to the framer keeps the invariant. -/

namespace Sys2Proof.Machine

/-- The control registers that `FINIT` accepts give a configuration that meets its invariant (R162). -/
theorem frameCfgInv_finitLatch {p : Params} {c : Csr} {e : Nat} (hcsr : CsrInv p c)
    (hcheck : finitHeader p.bufsz c = some e) : FrameCfgInv p (finitLatch c e) := by
  obtain ⟨-, -, hpktSize, hmaxLen, -, hlfLen, hset⟩ := hcsr
  unfold finitHeader at hcheck
  cases hmode : c.fMode with
  | noFraming => simp [hmode] at hcheck
  | fixed =>
    simp only [hmode, Option.ite_none_right_eq_some, Option.some.injEq] at hcheck
    obtain ⟨hmin, rfl⟩ := hcheck
    simpa [FrameCfgInv, finitLatch, hmode] using ⟨hmin, hpktSize⟩
  | ccsds =>
    simp only [hmode, Option.ite_none_right_eq_some, Option.some.injEq] at hcheck
    obtain ⟨hmin, rfl⟩ := hcheck
    simpa [FrameCfgInv, finitLatch, hmode] using ⟨hmin, hmaxLen⟩
  | generic =>
    simp only [hmode, Option.ite_none_right_eq_some, Option.some.injEq] at hcheck
    obtain ⟨⟨hall, hfit⟩, rfl⟩ := hcheck
    have hlfLenSet : 1 ≤ c.lfLen.toNat := hset (by rw [hall]; decide)
    simpa [FrameCfgInv, finitLatch, hmode] using ⟨hlfLenSet, hlfLen, hfit, hmaxLen⟩

/-- In the fixed mode the header is empty, nothing is stripped and the total is a legal length. -/
theorem frameCfgInv_fixed {p : Params} {f : FrameCfg} (h : FrameCfgInv p f) (hmode : f.mode = .fixed) :
    f.e = 0 ∧ f.strip = 0 ∧ 1 ≤ f.pktSize.toNat ∧ f.pktSize.toNat ≤ p.bufsz := by
  simpa [FrameCfgInv, hmode] using h

/-- In a mode whose packets declare their length the header is not empty and fits, as MAXLEN does. -/
theorem frameCfgInv_header {p : Params} {f : FrameCfg} (h : FrameCfgInv p f) (hmode : f.mode ≠ .fixed) :
    0 < f.e ∧ f.e ≤ p.bufsz ∧ f.maxLen.toNat ≤ p.bufsz := by
  unfold FrameCfgInv at h
  split at h
  next => exact h.elim
  next hfixed => exact absurd hfixed hmode
  next =>
    obtain ⟨he, -, hmin, hmax⟩ := h
    omega
  next =>
    obtain ⟨he, hmin, -, hfit, hmax⟩ := h
    omega

theorem framerCounters_header {p : Params} {f : Framer} (h : f.fst = .header) :
    FramerCounters p f ↔ FrameCfgInv p f.cfg ∧ f.cfg.mode ≠ .fixed ∧ f.fpos < f.cfg.e ∧ f.ftot = 0 ∧
      f.flen = f.fpos - f.cfg.strip.toNat := by
  simp [FramerCounters, h]

theorem framerCounters_body {p : Params} {f : Framer} (h : f.fst = .body) :
    FramerCounters p f ↔ FrameCfgInv p f.cfg ∧ f.fpos < f.ftot ∧ f.ftot ≤ p.bufsz ∧
      f.cfg.e ≤ f.ftot ∧ f.cfg.strip.toNat ≤ f.ftot ∧ f.flen = f.fpos - f.cfg.strip.toNat := by
  simp [FramerCounters, h]

theorem framerCounters_ready {p : Params} {f : Framer} (h : f.fst = .ready) :
    FramerCounters p f ↔ FrameCfgInv p f.cfg ∧ f.fpos = f.ftot ∧ f.ftot ≤ p.bufsz ∧
      f.cfg.strip.toNat ≤ f.ftot ∧ f.flen = f.ftot - f.cfg.strip.toNat := by
  simp [FramerCounters, h]

/-- The framer's two buffers are canonical and within BUFSZ (log 7). -/
def FramerBuffers (p : Params) (f : Framer) : Prop :=
  MemoryFits f.fbuf p.bufsz ∧ MemoryFits f.fhdr p.bufsz

theorem framerInv_iff (p : Params) (f : Framer) :
    FramerInv p f ↔ FramerBuffers p f ∧ FramerCounters p f :=
  and_assoc.symm

/-- Stopping the framer clears its counters and touches no buffer (R165, R167). -/
theorem framerInv_framerOff {p : Params} {f : Framer} (h : FramerInv p f) :
    FramerInv p (framerOff f) := by
  obtain ⟨hbufs, -⟩ := (framerInv_iff p f).1 h
  exact (framerInv_iff p _).2 ⟨hbufs, rfl, rfl, rfl⟩

/-- A restart under an accepted configuration awaits a first byte: of the body in the fixed mode, of
the header in the others (R162). -/
theorem framerInv_framerRestart {p : Params} {f : Framer} (hbufs : FramerBuffers p f)
    (hcfg : FrameCfgInv p f.cfg) : FramerInv p (framerRestart f) := by
  refine (framerInv_iff p _).2 ⟨by simpa [FramerBuffers] using hbufs, ?_⟩
  by_cases hmode : f.cfg.mode = .fixed
  · obtain ⟨hfst, hftot⟩ := framerRestart_fixed f hmode
    obtain ⟨he, hstrip, hmin, hmax⟩ := frameCfgInv_fixed hcfg hmode
    rw [framerCounters_body hfst, hftot]
    simpa [he, hstrip, hmax] using ⟨hcfg, hmin⟩
  · obtain ⟨hfst, hftot⟩ := framerRestart_other f hmode
    obtain ⟨he, -, -⟩ := frameCfgInv_header hcfg hmode
    rw [framerCounters_header hfst, hftot]
    simpa using ⟨hcfg, hmode, he⟩

/-- The framer within an FPUSH, its byte consumed and nothing resolved yet (R163): the counters are
those of the header or the body, which may now be complete. -/
structure FramerPending (p : Params) (f : Framer) : Prop where
  bufs : FramerBuffers p f
  cfg : FrameCfgInv p f.cfg
  flen : f.flen = f.fpos - f.cfg.strip.toNat
  counters : (f.fst = .header ∧ f.cfg.mode ≠ .fixed ∧ f.fpos ≤ f.cfg.e ∧ f.ftot = 0) ∨
    (f.fst = .body ∧ f.fpos ≤ f.ftot ∧ f.ftot ≤ p.bufsz ∧ f.cfg.e ≤ f.ftot ∧
      f.cfg.strip.toNat ≤ f.ftot)

/-- A byte consumed below BUFSZ is kept and emitted below BUFSZ (R163). -/
theorem framerBuffers_framerConsume {p : Params} {f : Framer} (byte : Byte) (h : FramerBuffers p f)
    (hfpos : f.fpos < p.bufsz) (hflen : f.flen ≤ f.fpos) : FramerBuffers p (framerConsume byte f) := by
  obtain ⟨hfbuf, hfhdr⟩ := h
  refine ⟨?fbuf, ?fhdr⟩
  case fbuf =>
    rw [framerConsume_fbuf]
    split
    · exact memoryFits_write hfbuf (by omega)
    · exact hfbuf
  case fhdr =>
    rw [framerConsume_fhdr]
    split
    · exact memoryFits_write hfhdr hfpos
    · exact hfhdr

/-- As many bytes are emitted as are consumed past the stripped ones (R163). -/
theorem framerConsume_flen_eq {f : Framer} (byte : Byte) (h : f.flen = f.fpos - f.cfg.strip.toNat) :
    (framerConsume byte f).flen = f.fpos + 1 - f.cfg.strip.toNat := by
  rw [framerConsume_flen]
  split <;> omega

/-- Consuming a byte leads from the invariant to the middle of FPUSH. -/
theorem framerPending_framerConsume {p : Params} {f : Framer} (byte : Byte) (h : FramerInv p f)
    (hst : f.fst = .header ∨ f.fst = .body) : FramerPending p (framerConsume byte f) := by
  obtain ⟨hbufs, hcounters⟩ := (framerInv_iff p f).1 h
  obtain hfst | hfst := hst
  · obtain ⟨hcfg, hmode, hfpos, hftot, hflen⟩ := (framerCounters_header hfst).1 hcounters
    obtain ⟨-, he, -⟩ := frameCfgInv_header hcfg hmode
    exact ⟨framerBuffers_framerConsume byte hbufs (by omega) (by omega), hcfg,
      framerConsume_flen_eq byte hflen, .inl ⟨hfst, hmode, hfpos, hftot⟩⟩
  · obtain ⟨hcfg, hfpos, hftot, he, hstrip, hflen⟩ := (framerCounters_body hfst).1 hcounters
    exact ⟨framerBuffers_framerConsume byte hbufs (by omega) (by omega), hcfg,
      framerConsume_flen_eq byte hflen, .inr ⟨hfst, hfpos, hftot, he, hstrip⟩⟩

/-- A header is refused only when it is complete (R163). -/
theorem framerHeader_error {f : Framer} {e : ErrCode} (h : framerHeader f = .error e) :
    f.fst = .header ∧ f.fpos = f.cfg.e := by
  unfold framerHeader at h
  split at h
  · assumption
  · cases h

/-- What the header test leaves where it raises nothing: a complete header becomes a body whose total
lies between the header's end and MAXLEN; anything else stays as it is (R163, R164). -/
theorem framerHeader_ok {f g : Framer} (h : framerHeader f = .ok g) :
    (¬(f.fst = .header ∧ f.fpos = f.cfg.e) ∧ g = f) ∨
      ∃ n, (f.fst = .header ∧ f.fpos = f.cfg.e) ∧ max f.cfg.e f.cfg.strip.toNat ≤ n ∧
        n ≤ f.cfg.maxLen.toNat ∧ g = { f with ftot := n, fst := .body } := by
  unfold framerHeader at h
  split_ifs at h with hdone hshort hlong
  · cases h
    exact .inr ⟨_, hdone, by omega, by omega, rfl⟩
  · cases h
    exact .inl ⟨hdone, rfl⟩

/-- FPUSH refused at the header's end leaves a coherent framer in FAULT (R163). -/
theorem FramerPending.faulted {p : Params} {f : Framer} {e : ErrCode} (h : FramerPending p f)
    (hhdr : framerHeader f = .error e) : FramerInv p { f with fst := .fault } := by
  obtain ⟨hfst, hfpos⟩ := framerHeader_error hhdr
  have hftot : f.ftot = 0 := by
    obtain ⟨-, -, -, hftot⟩ | ⟨hbody, -⟩ := h.counters
    · exact hftot
    · cases hfst.symm.trans hbody
  exact (framerInv_iff p _).2 ⟨h.bufs, h.cfg, hfpos, hftot, h.flen⟩

/-- The header test keeps what holds in the middle of FPUSH, and leaves no complete header. -/
theorem FramerPending.resolved {p : Params} {f g : Framer} (h : FramerPending p f)
    (hhdr : framerHeader f = .ok g) :
    FramerPending p g ∧ ¬(g.fst = .header ∧ g.fpos = g.cfg.e) := by
  obtain ⟨hmore, rfl⟩ | ⟨n, ⟨hfst, hfpos⟩, hmin, hmax, rfl⟩ := framerHeader_ok hhdr
  · exact ⟨h, hmore⟩
  · obtain ⟨-, hmode, -, -⟩ | ⟨hbody, -⟩ := h.counters
    · obtain ⟨-, -, hmaxLen⟩ := frameCfgInv_header h.cfg hmode
      obtain ⟨he, hstrip⟩ := max_le_iff.1 hmin
      exact ⟨⟨h.bufs, h.cfg, h.flen, .inr ⟨rfl, hfpos.trans_le he, hmax.trans hmaxLen, he, hstrip⟩⟩,
        nofun⟩
    · cases hfst.symm.trans hbody

/-- A packet is complete exactly when the body has its last byte (R163). -/
theorem framerComplete_iff (f : Framer) :
    framerComplete f = true ↔ f.fst = .body ∧ f.fpos = f.ftot := by
  simp [framerComplete]

/-- FPUSH of the last byte leaves a coherent framer that is READY (R163). -/
theorem FramerPending.completed {p : Params} {f : Framer} (h : FramerPending p f)
    (hdone : framerComplete f = true) : FramerInv p { f with fst := .ready } := by
  obtain ⟨hfst, hfpos⟩ := (framerComplete_iff f).1 hdone
  obtain ⟨hheader, -⟩ | ⟨-, -, hftot, -, hstrip⟩ := h.counters
  · cases hfst.symm.trans hheader
  · exact (framerInv_iff p _).2 ⟨h.bufs, h.cfg, hfpos, hftot, hstrip, hfpos ▸ h.flen⟩

/-- FPUSH of any other byte leaves a coherent framer that awaits more (R163). -/
theorem FramerPending.awaiting {p : Params} {f : Framer} (h : FramerPending p f)
    (hheader : ¬(f.fst = .header ∧ f.fpos = f.cfg.e)) (hmore : framerComplete f = false) :
    FramerInv p f := by
  refine (framerInv_iff p f).2 ⟨h.bufs, ?_⟩
  obtain ⟨hfst, hmode, hfpos, hftot⟩ | ⟨hfst, hfpos, hftot, he, hstrip⟩ := h.counters
  · have hne : f.fpos ≠ f.cfg.e := fun heq => hheader ⟨hfst, heq⟩
    exact (framerCounters_header hfst).2 ⟨h.cfg, hmode, lt_of_le_of_ne hfpos hne, hftot, h.flen⟩
  · have hne : f.fpos ≠ f.ftot := fun heq => by
      simp [(framerComplete_iff f).2 ⟨hfst, heq⟩] at hmore
    exact (framerCounters_body hfst).2
      ⟨h.cfg, lt_of_le_of_ne hfpos hne, hftot, he, hstrip, h.flen⟩

/-- A delivered packet fits in BUF, and its configuration serves the next one (R166). -/
theorem framerInv_ready {p : Params} {f : Framer} (h : FramerInv p f) (hfst : f.fst = .ready) :
    f.flen ≤ p.bufsz ∧ FramerInv p (framerRestart f) := by
  obtain ⟨hbufs, hcounters⟩ := (framerInv_iff p f).1 h
  obtain ⟨hcfg, -, hftot, -, hflen⟩ := (framerCounters_ready hfst).1 hcounters
  exact ⟨by omega, framerInv_framerRestart hbufs hcfg⟩

end Sys2Proof.Machine

/-! Every step keeps the invariant of the block's states: the packet buffer, the control registers and
the reserved bits of EVENT part by part, then one case per effect of a command. -/

namespace Sys2Proof.Machine

/-- A stored legal value is the register's value as a number (10_state.md R30). -/
theorem toNat_setWidth17_of_le_bufsz {p : Params} (hp : p.Legal) {v : Word} (hv : v.toNat ≤ p.bufsz) :
    (v.setWidth 17).toNat = v.toNat := by
  rw [BitVec.toNat_setWidth, Nat.mod_eq_of_lt (lt_of_le_bufsz hp hv)]

/-- A write to LFOFF, LFADJ or STRIP marks another register than LFLEN as set (R46). -/
theorem lfLenSet_or {x m : BitVec 4} (hm : m.getLsbD 1 = false) :
    (x ||| m).getLsbD 1 = x.getLsbD 1 := by
  rw [BitVec.getLsbD_or, hm, Bool.or_false]

/-- A legal write keeps the registers' invariant (R31). -/
theorem csrInv_csrStore {p : Params} {c : Csr} {r : CsrName} {v : Word} (hp : p.Legal)
    (h : CsrInv p c) (hlegal : csrLegal p r v = true) : CsrInv p (csrStore c r v) := by
  have ⟨hrxMin, htxMin, hpktSize, hmaxLen, hlfOff, hlfLen, hset⟩ := h
  have hfits : ∀ hv : v.toNat ≤ p.bufsz, (v.setWidth 17).toNat ≤ p.bufsz := fun hv =>
    (toNat_setWidth17_of_le_bufsz hp hv).trans_le hv
  cases r with
  | rxMin =>
    obtain ⟨hfloor, hle⟩ := Bool.and_eq_true_iff.1 hlegal
    have hval := toNat_setWidth17_of_le_bufsz hp (of_decide_eq_true hle)
    exact ⟨⟨(of_decide_eq_true hfloor).trans_eq hval.symm, hfits (of_decide_eq_true hle)⟩,
      htxMin, hpktSize, hmaxLen, hlfOff, hlfLen, hset⟩
  | txMin =>
    exact ⟨hrxMin, hfits (of_decide_eq_true hlegal), hpktSize, hmaxLen, hlfOff, hlfLen, hset⟩
  | pktSize =>
    exact ⟨hrxMin, htxMin, hfits (of_decide_eq_true hlegal), hmaxLen, hlfOff, hlfLen, hset⟩
  | maxLen =>
    exact ⟨hrxMin, htxMin, hpktSize, hfits (of_decide_eq_true hlegal), hlfOff, hlfLen, hset⟩
  | lfOff =>
    exact ⟨hrxMin, htxMin, hpktSize, hmaxLen, hfits (of_decide_eq_true hlegal), hlfLen,
      fun hbit => hset ((lfLenSet_or rfl).symm.trans hbit)⟩
  | lfLen =>
    obtain ⟨hmin, hmax⟩ := Bool.and_eq_true_iff.1 hlegal
    have hmin : 1 ≤ v.toNat := of_decide_eq_true hmin
    have hmax : v.toNat ≤ 4 := of_decide_eq_true hmax
    have hval : (v.setWidth 3).toNat = v.toNat := by
      rw [BitVec.toNat_setWidth, Nat.mod_eq_of_lt (by omega)]
    exact ⟨hrxMin, htxMin, hpktSize, hmaxLen, hlfOff, hval.trans_le hmax,
      fun _ => hmin.trans_eq hval.symm⟩
  | lfAdj | strip =>
    exact ⟨hrxMin, htxMin, hpktSize, hmaxLen, hlfOff, hlfLen,
      fun hbit => hset ((lfLenSet_or rfl).symm.trans hbit)⟩
  | ckSel | crcIv | txCtl | fMode | lfOrd | event => exact h
  | fcfgSet | fState | fPos | fTot | fLen => exact h
  | rxFlags | rxSeqId | rxCoarse | rxFine => exact h
  | txFlags | txSeq | txCk | txApid => exact h

/-- Setting flags leaves the reserved bits 5 and 6 of EVENT zero, none of the flags being one (R25). -/
theorem reserved_setEvent {event mask : Byte} (b : Bool) (h : event &&& 0x60 = 0)
    (hmask : mask &&& 0x60 = 0) : setEvent b mask event &&& 0x60 = 0 := by
  cases b with
  | false => exact h
  | true => rw [setEvent_true, BitVec.and_or_distrib_right, h, hmask]; rfl

/-- Clearing flags leaves the reserved bits of EVENT zero (R25, R31). -/
theorem reserved_clearEvent {event : Byte} (v : Word) (h : event &&& 0x60 = 0) :
    clearEvent v event &&& 0x60 = 0 := by
  rw [clearEvent, BitVec.and_assoc, BitVec.and_comm (~~~_), ← BitVec.and_assoc, h]
  exact BitVec.zero_and

/-- No step of TXPROC shortens the packet (45_tx_pipeline.md R221 (a) to (c)). -/
theorem len_le_txLen3 (s : State) : s.len ≤ txLen3 s := by
  unfold txLen3 txLen2 txLen1
  omega

/-- The time is written only where both time fields end within the final length (R224). -/
theorem timeFields_le_of_txTimeWritten {s : State} (h : txTimeWritten s = true) :
    s.params.shCoarseOff + 4 ≤ txLen3 s ∧ s.params.shFineOff + 1 ≤ txLen3 s := by
  obtain ⟨-, hend⟩ := Bool.and_eq_true_iff.1 h
  exact max_le_iff.1 (of_decide_eq_true hend)

/-- The packet TXPROC leaves is canonical and lies within its final length: the header fields it writes
are below 7, the time fields fit and the checksum takes the last two bytes (R221). -/
theorem memoryFits_txPacket (fine : Byte) (coarse : Word) {s : State} (hwf : Memory.wf s.buf = true)
    (hmin : 7 ≤ txLen3 s) : MemoryFits (txPacket fine coarse s) (txLen3 s) := by
  have hsized : MemoryFits (txSized s) (txLen3 s) :=
    memoryFits_write2 (memoryFits_mono (memoryFits_below _ hwf) (len_le_txLen3 s)) (by omega)
  have hcounted : MemoryFits (txCounted s) (txLen3 s) := memoryFits_write2 hsized (by omega)
  have htimed : MemoryFits (txTimed fine coarse s) (txLen3 s) := by
    unfold txTimed
    split
    next htime =>
      obtain ⟨hcoarse, hfine⟩ := timeFields_le_of_txTimeWritten htime
      exact memoryFits_write (memoryFits_write4 hcounted (by omega)) (by omega)
    next => exact hcounted
  unfold txPacket
  split
  · exact memoryFits_write2 htimed (by omega)
  · exact htimed

/-- The reset state of a legal build meets the invariant, whatever samples wait (logs 2 and 13). -/
theorem stateInv_resetState {s : State} (hp : s.params.Legal) : StateInv (resetState s) :=
  resetMeetsTheInvariant s.params hp

/-- The invariant speaks neither of the response nor of the samples still to be presented. -/
theorem stateInv_answered {v : Word} {s : State} (h : StateInv s) : StateInv (answered v s) := h

theorem stateInv_portTaken {s : State} (h : StateInv s) : StateInv (portTaken s) := h

/-- An error sets EVENT.ERR, which is no reserved bit (R25, 60_exceptions.md R262). -/
theorem stateInv_failed {code : Nat} {s : State} (h : StateInv s) : StateInv (failed code s) := by
  obtain ⟨hp, hbuf, hrx, htx, hcsr, hfr, hevent⟩ := h
  exact ⟨hp, hbuf, hrx, htx, hcsr, hfr, reserved_setEvent (mask := evErr) true hevent rfl⟩

/-- A change of the packet buffer keeps the invariant if the new buffer meets its part of it. -/
theorem stateInv_withBuf {s : State} {m : Memory} {n : Nat} (h : StateInv s)
    (hm : MemoryFits m n) (hcap : n ≤ s.params.bufsz) : StateInv { s with buf := m, len := n } := by
  obtain ⟨hp, -, hrest⟩ := h
  exact ⟨hp, (bufInv_iff _).2 ⟨hm, hcap⟩, hrest⟩

/-- A change of the framer keeps the invariant if the new framer is coherent. -/
theorem stateInv_withFramer {s : State} {f : Framer} (h : StateInv s) (hf : FramerInv s.params f) :
    StateInv { s with fr := f } := by
  obtain ⟨hp, hbuf, hrx, htx, hcsr, -, hevent⟩ := h
  exact ⟨hp, hbuf, hrx, htx, hcsr, hf, hevent⟩

/-- Whatever a command does besides responding keeps the invariant. -/
theorem commandEffect_keeps_stateInv {i : Instr} {s u : State} (heffect : CommandEffect s i u)
    (h : StateInv s) : StateInv u := by
  have ⟨hp, hbuf, hrx, htx, hcsr, hfr, hevent⟩ := h
  have ⟨hfits, hlen⟩ := (bufInv_iff s).1 hbuf
  cases heffect with
  | unchanged => exact h
  | reset => exact stateInv_resetState hp
  | storeCsr _ hlegal => exact ⟨hp, hbuf, hrx, htx, csrInv_csrStore hp hcsr hlegal, hfr, hevent⟩
  | clearFlags => exact ⟨hp, hbuf, hrx, htx, hcsr, hfr, reserved_clearEvent _ hevent⟩
  | resize hcap =>
    exact stateInv_withBuf h (memoryFits_mono (memoryFits_below _ hfits.1) (min_le_right _ _)) hcap
  | append hcap =>
    have hgrown : MemoryFits s.buf (s.len + 1) := memoryFits_mono hfits (Nat.le_succ _)
    exact stateInv_withBuf h (memoryFits_write hgrown (Nat.lt_succ_self _)) hcap
  | storeByte _ hfit => exact stateInv_withBuf h (memoryFits_write hfits hfit) hlen
  | storeHalf _ hfit => exact stateInv_withBuf h (memoryFits_write2 hfits hfit) hlen
  | storeWord _ hfit => exact stateInv_withBuf h (memoryFits_write4 hfits hfit) hlen
  | storeHeader _ hfit =>
    have hword : 0 + 3 < s.len := by omega
    exact stateInv_withBuf h (memoryFits_write2 (memoryFits_write4 hfits hword) hfit) hlen
  | stopFramer => exact stateInv_withFramer h (framerInv_framerOff hfr)
  | startFramer hcheck =>
    obtain ⟨hbufs, -⟩ := (framerInv_iff _ _).1 hfr
    exact stateInv_withFramer h (framerInv_framerRestart hbufs (frameCfgInv_finitLatch hcsr hcheck))
  | refusePush hst hhdr =>
    exact stateInv_withFramer h ((framerPending_framerConsume _ hfr hst).faulted hhdr)
  | completePush hst hhdr hdone =>
    obtain ⟨hpending, -⟩ := (framerPending_framerConsume _ hfr hst).resolved hhdr
    exact stateInv_withFramer h (hpending.completed hdone)
  | acceptPush hst hhdr hmore =>
    obtain ⟨hpending, hheader⟩ := (framerPending_framerConsume _ hfr hst).resolved hhdr
    exact stateInv_withFramer h (hpending.awaiting hheader hmore)
  | takePacket hst =>
    obtain ⟨⟨hfbuf, -⟩, -⟩ := (framerInv_iff _ _).1 hfr
    obtain ⟨hcap, hrestart⟩ := framerInv_ready hfr hst
    exact stateInv_withFramer (stateInv_withBuf h (memoryFits_below _ hfbuf.1) hcap) hrestart
  | dropPacket => exact ⟨hp, hbuf, hrx, htx, hcsr, hfr, reserved_setEvent _ hevent rfl⟩
  | receivePacket =>
    exact ⟨hp, hbuf, tableInv_seqSet hrx _ _, htx, hcsr, hfr,
      reserved_setEvent _ (reserved_setEvent _ (reserved_setEvent _ hevent rfl) rfl) rfl⟩
  | trackReceived =>
    exact ⟨hp, hbuf, tableInv_seqSet hrx _ _, htx, hcsr, hfr, reserved_setEvent _ hevent rfl⟩
  | sendPacket hcap hmin =>
    exact ⟨hp, (bufInv_iff _).2 ⟨memoryFits_txPacket _ _ hfits.1 hmin, hcap⟩, hrx,
      tableInv_seqSet htx _ _, hcsr, hfr, reserved_setEvent _ (reserved_setEvent _ hevent rfl) rfl⟩
  | countSent => exact ⟨hp, hbuf, hrx, tableInv_seqSet htx _ _, hcsr, hfr, hevent⟩

/-- Every command keeps the invariant. -/
theorem exec_keeps_stateInv {i : Instr} {s t : State} (h : StateInv s) (hexec : exec i s = .next t) :
    StateInv t := by
  obtain ⟨u, heffect, ⟨v, hv⟩ | ⟨e, he⟩⟩ := exec_answers i s
  · cases hexec.symm.trans hv
    exact stateInv_answered (commandEffect_keeps_stateInv heffect h)
  · cases hexec.symm.trans he
    exact stateInv_failed (commandEffect_keeps_stateInv heffect h)

/-- Settles O58: a step is idle, a reset, an illegal word or a command. -/
theorem everyStepKeepsTheInvariant : Obligations.EveryStepKeepsTheInvariant := by
  intro s t h hstep
  have htaken := stateInv_portTaken h
  obtain hidle | hreset | hillegal | ⟨i, hexec⟩ := step_cases s
  · cases hstep.symm.trans hidle
    exact htaken
  · cases hstep.symm.trans hreset
    exact stateInv_resetState htaken.1
  · cases hstep.symm.trans (hillegal.trans (raise_eq _ _))
    exact stateInv_failed htaken
  · exact exec_keeps_stateInv htaken (hexec.symm.trans hstep)

end Sys2Proof.Machine

/-! One response on a state that has a given property: the form in which a statement about every command
is proved command by command. `Answers` is the case of the property `CommandEffect s i`. -/

namespace Sys2Proof.Machine

/-- `r` is a single response, OK or an error, on a state that has `P`. -/
def AnswersOn (P : State → Prop) (r : Result) : Prop :=
  ∃ u, P u ∧ ((∃ v, r = .next (answered v u)) ∨ ∃ e, r = .next (failed (errCode e).toNat u))

theorem answers_iff_answersOn (i : Instr) (s : State) (r : Result) :
    Answers i s r ↔ AnswersOn (CommandEffect s i) r := Iff.rfl

section
variable {P : State → Prop} {s : State}

theorem answersOn_respond {u : State} (v : Word) (h : P u) : AnswersOn P (respond v u) :=
  ⟨u, h, .inl ⟨v, respond_eq v u⟩⟩

theorem answersOn_raise {u : State} (e : ErrCode) (h : P u) : AnswersOn P (raise e u) :=
  ⟨u, h, .inr ⟨e, raise_eq e u⟩⟩

theorem answersOn_ite {c : Prop} [Decidable c] {a b : Result} (ha : AnswersOn P a)
    (hb : AnswersOn P b) : AnswersOn P (if c then a else b) := by
  split
  · exact ha
  · exact hb

theorem answersOn_finishRead (r : Except ErrCode Word) (h : P s) : AnswersOn P (finishRead r s) := by
  cases r with
  | ok v => exact answersOn_respond v h
  | error e => exact answersOn_raise e h

theorem AnswersOn.mono {Q : State → Prop} {r : Result} (h : AnswersOn P r) (hPQ : ∀ u, P u → Q u) :
    AnswersOn Q r := by
  obtain ⟨u, hu, hr⟩ := h
  exact ⟨u, hPQ u hu, hr⟩

/-- A response changes no part of the state it is given on but the response and EVENT
(30_encoding.md R82, 60_exceptions.md R262). -/
theorem AnswersOn.of_next {t : State} (h : AnswersOn P (.next t)) :
    ∃ u rsp event, P u ∧ t = { u with rsp := rsp, event := event } := by
  obtain ⟨u, hu, ⟨v, hv⟩ | ⟨e, he⟩⟩ := h
  · cases hv
    exact ⟨u, _, u.event, hu, rfl⟩
  · cases he
    exact ⟨u, _, _, hu, rfl⟩

end

end Sys2Proof.Machine

/-! The reading commands (20_memory.md R67): each is the end of a read that a response, or a second error,
does not disturb. -/

namespace Sys2Proof.Machine

/-- The commands R67 lists as changing nothing but the response and, on an error, EVENT.ERR. -/
def ReadingCommand (i : Instr) : Prop :=
  (∃ n, i = .csrr n) ∨ i = .rdlen ∨ (∃ a, i = .rdb a) ∨ (∃ a n, i = .sum16 a n) ∨
    (∃ a n, i = .crc16 a n) ∨ (∃ a n, i = .flet16 a n) ∨ (∃ a n, i = .cksum a n) ∨
    (∃ a, i = .seqget a) ∨ (∃ a, i = .txseqget a) ∨
    i ∈ [Instr.gver, .gtype, .gshf, .gapid, .gseqf, .gseq, .glenf, .gplen, .gcoarse, .gfine, .gcki]

/-- `i` only reads: it ends the read `f`, which an OK response leaves as it is, and an error response
too where it raises. (CSRR of EVENT sees an error response, but never raises.) -/
def ReadsOnly (i : Instr) : Prop :=
  ∃ f : State → Except ErrCode Word,
    (∀ s, exec i s = finishRead (f s) s) ∧
    (∀ v s, f (answered v s) = f s) ∧
    ∀ code s e, f s = .error e → f (failed code s) = .error e

/-- The read of a checksum command (41_checksum.md R100): `f` of the bytes of the range. -/
def rangeRead (off : BitVec 24) (n : Word) (f : List Byte → Half) (s : State) :
    Except ErrCode Word :=
  if off.toNat + n.toNat ≤ s.len then
    .ok ((f (Memory.bytes s.buf off.toNat n.toNat)).setWidth 32)
  else .error .bounds

theorem overRange_eq_finishRead (off : BitVec 24) (n : Word) (f : List Byte → Half) (s : State) :
    overRange off n f s = finishRead (rangeRead off n f s) s := by
  unfold rangeRead
  rw [apply_ite (finishRead · s)]
  rfl

/-- SUM16 and CKSUM test another condition before the range (R101, R111). -/
theorem overRange_after_invarg_eq_finishRead (c : Prop) [Decidable c] (off : BitVec 24) (n : Word)
    (f : List Byte → Half) (s : State) :
    (if c then raise .invarg s else overRange off n f s) =
      finishRead (if c then .error .invarg else rangeRead off n f s) s := by
  rw [apply_ite (finishRead · s), ← overRange_eq_finishRead]
  rfl

/-- A read that sees neither the response nor EVENT is disturbed by no response. -/
theorem readsOnly_of_blind {i : Instr} {f : State → Except ErrCode Word}
    (hexec : ∀ s, exec i s = finishRead (f s) s)
    (hblind : ∀ s rsp event, f { s with rsp := rsp, event := event } = f s) : ReadsOnly i :=
  ⟨f, hexec, fun _ s => hblind s _ s.event, fun _ s _ h => (hblind s _ _).trans h⟩

theorem readsOnly_sum16 (off : BitVec 24) (n : Word) : ReadsOnly (.sum16 off n) :=
  readsOnly_of_blind
    (f := fun s => if n.toNat % 2 = 1 then .error .invarg else rangeRead off n (sum16From 0) s)
    (fun _ => overRange_after_invarg_eq_finishRead _ _ _ _ _) fun _ _ _ => rfl

theorem readsOnly_cksum (off : BitVec 24) (n : Word) : ReadsOnly (.cksum off n) :=
  readsOnly_of_blind
    (f := fun s => if s.csr.ckSel = .sum ∧ n.toNat % 2 = 1 then .error .invarg
      else rangeRead off n (fun bytes => (cksumOf s.csr.ckSel s.csr.crcIv bytes).getD 0) s)
    (fun _ => overRange_after_invarg_eq_finishRead _ _ _ _ _) fun _ _ _ => rfl

theorem readsOnly_csrr (n : BitVec 24) : ReadsOnly (.csrr n) := by
  cases hnum : csrOfNum n with
  | none =>
    refine readsOnly_of_blind (f := fun _ => .error .illegal) (fun s => ?_) fun _ _ _ => rfl
    simp [exec, execCsrr, hnum, raise_eq]
  | some r =>
    refine ⟨fun s => .ok (csrRead s r), fun s => ?_, fun v s => ?_, fun code s e h => ?_⟩
    · exact (execCsrr_of_num hnum s).trans (finishRead_ok _ _).symm
    · exact congrArg Except.ok (csrRead_answered v s r)
    · cases h

theorem readsOnly_of_readingCommand {i : Instr} (h : ReadingCommand i) : ReadsOnly i := by
  obtain ⟨n, rfl⟩ | rfl | ⟨a, rfl⟩ | ⟨a, n, rfl⟩ | ⟨a, n, rfl⟩ | ⟨a, n, rfl⟩ | ⟨a, n, rfl⟩ |
    ⟨a, rfl⟩ | ⟨a, rfl⟩ | hget := h
  · exact readsOnly_csrr n
  · exact readsOnly_of_blind (f := fun s => .ok (BitVec.ofNat 32 s.len)) (fun _ => rfl)
      fun _ _ _ => rfl
  · exact readsOnly_of_blind (fun _ => rfl) fun _ _ _ => rfl
  · exact readsOnly_sum16 a n
  · exact readsOnly_of_blind (f := fun s => rangeRead a n (crc16From s.csr.crcIv) s)
      (fun s => overRange_eq_finishRead a n _ s) fun _ _ _ => rfl
  · exact readsOnly_of_blind (overRange_eq_finishRead a n fletcher16) fun _ _ _ => rfl
  · exact readsOnly_cksum a n
  · exact readsOnly_of_blind (f := fun s => .ok (packSeqEntry (seqGet s.rxSeq a))) (fun _ => rfl)
      fun _ _ _ => rfl
  · exact readsOnly_of_blind (f := fun s => .ok (packSeqEntry (seqGet s.txSeq a))) (fun _ => rfl)
      fun _ _ _ => rfl
  · simp only [List.mem_cons, List.not_mem_nil, or_false] at hget
    obtain rfl | rfl | rfl | rfl | rfl | rfl | rfl | rfl | rfl | rfl | rfl := hget
    all_goals exact readsOnly_of_blind (fun _ => rfl) fun _ _ _ => rfl

/-- A command that only reads answers on the very state it was given. -/
theorem ReadsOnly.answersOn {i : Instr} {P : State → Prop} {s : State} (h : ReadsOnly i) (hs : P s) :
    AnswersOn P (exec i s) := by
  obtain ⟨f, hf, -⟩ := h
  rw [hf]
  exact answersOn_finishRead _ hs

/-- Only the last response is held, and EVENT.ERR is set once (60_exceptions.md R262). -/
theorem failed_failed (code : Nat) (s : State) : failed code (failed code s) = failed code s := by
  simp [failed, BitVec.or_assoc]

/-- Settles O56, by the read each command ends: the second time it sees what it saw the first time. -/
theorem readingCommandsAreIdempotent : Obligations.ReadingCommandsAreIdempotent := by
  intro i s t hread hexec
  obtain ⟨f, hf, hanswered, hfailed⟩ := readsOnly_of_readingCommand hread
  rw [hf] at hexec
  cases hval : f s with
  | ok v =>
    rw [hval, finishRead_ok] at hexec
    cases hexec
    have hagain : exec i (answered v s) = .next (answered v s) := by
      rw [hf, hanswered, hval, finishRead_ok]
      rfl
    exact ⟨rfl, .inl rfl, _, hagain, rfl⟩
  | error e =>
    rw [hval, finishRead_error] at hexec
    cases hexec
    have hagain : exec i (failed (errCode e).toNat s) = .next (failed (errCode e).toNat s) := by
      rw [hf, hfailed _ s e hval, finishRead_error, failed_failed]
    exact ⟨rfl, .inr rfl, _, hagain, rfl⟩

end Sys2Proof.Machine

/-! Which commands reach which part of the state (20_memory.md R60, 43_framer.md R173, 44_rx_pipeline.md
R200, 70_reset_and_hazards.md R294). `CommandEffect` ties every effect to its commands but the stores
into BUF and the stopping of the framer; for those two parts the commands are gone through here. -/

namespace Sys2Proof.Machine

section
variable {i : Instr} {s u : State}

/-- The parameters and the waiting samples are no state of the block (logs 1, 2 and 13). -/
theorem CommandEffect.inputs (h : CommandEffect s i u) : u.params = s.params ∧ u.port = s.port := by
  cases h <;> exact ⟨rfl, rfl⟩

theorem CommandEffect.rxSeq (h : CommandEffect s i u) (hne : u.rxSeq ≠ s.rxSeq) :
    i = .srst ∨ i = .rxproc ∨ ∃ a q, i = .seqchk a q := by
  cases h with
  | reset => exact .inl rfl
  | receivePacket => exact .inr (.inl rfl)
  | trackReceived apid seq => exact .inr (.inr ⟨apid, seq, rfl⟩)
  | _ => exact absurd rfl hne

theorem CommandEffect.txSeq (h : CommandEffect s i u) (hne : u.txSeq ≠ s.txSeq) :
    i = .srst ∨ (∃ f c, i = .txproc f c) ∨ ∃ a, i = .seqnext a := by
  cases h with
  | reset => exact .inl rfl
  | sendPacket => exact .inr (.inl ⟨_, _, rfl⟩)
  | countSent apid => exact .inr (.inr ⟨apid, rfl⟩)
  | _ => exact absurd rfl hne

theorem CommandEffect.csr (h : CommandEffect s i u) (hne : u.csr ≠ s.csr) :
    i = .srst ∨ ∃ n v, i = .csrw n v := by
  cases h with
  | reset => exact .inl rfl
  | storeCsr => exact .inr ⟨_, _, rfl⟩
  | _ => exact absurd rfl hne

theorem CommandEffect.rx (h : CommandEffect s i u) (hne : u.rx ≠ s.rx) : i = .srst ∨ i = .rxproc := by
  cases h with
  | reset => exact .inl rfl
  | dropPacket | receivePacket => exact .inr rfl
  | _ => exact absurd rfl hne

theorem CommandEffect.tx (h : CommandEffect s i u) (hne : u.tx ≠ s.tx) :
    i = .srst ∨ ∃ f c, i = .txproc f c := by
  cases h with
  | reset => exact .inl rfl
  | sendPacket => exact .inr ⟨_, _, rfl⟩
  | _ => exact absurd rfl hne

theorem CommandEffect.len (h : CommandEffect s i u) (hne : u.len ≠ s.len) :
    i = .srst ∨ i = .ftake ∨ (∃ n, i = .setlen n) ∨ (∃ b, i = .appb b) ∨ ∃ f c, i = .txproc f c := by
  cases h with
  | reset => exact .inl rfl
  | takePacket => exact .inr (.inl rfl)
  | resize => exact .inr (.inr (.inl ⟨_, rfl⟩))
  | append => exact .inr (.inr (.inr (.inl ⟨_, rfl⟩)))
  | sendPacket => exact .inr (.inr (.inr (.inr ⟨_, _, rfl⟩)))
  | _ => exact absurd rfl hne

end

/-- The commands that change the framer's state (R173), with SRST (46_buffer_system.md R241). -/
def FramerCommand (i : Instr) : Prop :=
  i = .srst ∨ i = .finit ∨ i = .feof ∨ i = .ftake ∨ i = .frst ∨ ∃ b, i = .fpush b

/-- The commands that write a part of the state and leave every byte of BUF (R60, R173, R200). -/
def NonBufferCommand (i : Instr) : Prop :=
  i = .finit ∨ i = .feof ∨ i = .frst ∨ i = .rxproc ∨ (∃ b, i = .fpush b) ∨
    (∃ n v, i = .csrw n v) ∨ (∃ a q, i = .seqchk a q) ∨ ∃ a, i = .seqnext a

/-- Common to the register writes and the receive pipeline (R173, R200). -/
def BufAndFramerKept (s u : State) : Prop := u.buf = s.buf ∧ u.fr = s.fr

section
variable {s : State}

theorem answersOn_csrw (n : BitVec 24) (v : Word) :
    AnswersOn (BufAndFramerKept s) (execCsrw n v s) := by
  cases hnum : csrOfNum n with
  | none =>
    rw [execCsrw_of_no_num hnum]
    exact answersOn_raise _ ⟨rfl, rfl⟩
  | some r =>
    rw [execCsrw_of_num hnum]
    obtain ⟨e, hw⟩ | ⟨-, hw⟩ | ⟨-, -, hw⟩ := csrWrite_cases s r v
    · rw [hw]
      exact answersOn_raise e ⟨rfl, rfl⟩
    · rw [hw]
      exact answersOn_respond 0 ⟨rfl, rfl⟩
    · rw [hw]
      exact answersOn_respond 0 ⟨rfl, rfl⟩

theorem answersOn_rxproc : AnswersOn (BufAndFramerKept s) (execRxproc s) := by
  unfold execRxproc
  refine answersOn_ite (answersOn_respond _ ⟨rfl, rfl⟩) ?_
  split
  · exact answersOn_raise _ ⟨rfl, rfl⟩
  · exact answersOn_respond _ ⟨rfl, rfl⟩

theorem answersOn_finit : AnswersOn (fun u => u.buf = s.buf) (execFinit s) := by
  unfold execFinit
  split
  · exact answersOn_raise _ rfl
  · exact answersOn_respond _ rfl

theorem answersOn_fpush (byte : Byte) : AnswersOn (fun u => u.buf = s.buf) (execFpush byte s) := by
  refine answersOn_ite ?_ (answersOn_raise _ rfl)
  split
  · exact answersOn_raise _ rfl
  · exact answersOn_ite (answersOn_respond _ rfl) (answersOn_respond _ rfl)

/-- A store of `k` bytes, in bounds or refused, leaves the framer. -/
theorem answersOn_store {r : Except ErrCode State} {m : Memory} {a k : Nat}
    (hok : a + k ≤ s.len → r = .ok { s with buf := m })
    (herror : s.len < a + k → r = .error .bounds) :
    AnswersOn (fun u => u.fr = s.fr) (finishWrite r s) := by
  obtain hout | hin := Nat.lt_or_ge s.len (a + k)
  · rw [herror hout]
    exact answersOn_raise _ rfl
  · rw [hok hin]
    exact answersOn_respond 0 rfl

end

theorem exec_keeps_buf {i : Instr} (h : NonBufferCommand i) (s : State) :
    AnswersOn (fun u => u.buf = s.buf) (exec i s) := by
  obtain rfl | rfl | rfl | rfl | ⟨b, rfl⟩ | ⟨n, v, rfl⟩ | ⟨a, q, rfl⟩ | ⟨a, rfl⟩ := h
  · exact answersOn_finit
  · exact answersOn_ite (answersOn_ite (answersOn_raise _ rfl) (answersOn_respond _ rfl))
      (answersOn_raise _ rfl)
  · exact answersOn_respond _ rfl
  · exact answersOn_rxproc.mono fun _ => And.left
  · exact answersOn_fpush b
  · exact (answersOn_csrw n v).mono fun _ => And.left
  · exact answersOn_respond _ rfl
  · exact answersOn_respond _ rfl

theorem exec_keeps_framer (i : Instr) (s : State) :
    FramerCommand i ∨ AnswersOn (fun u => u.fr = s.fr) (exec i s) := by
  cases i with
  | srst | finit | feof | ftake | frst | fpush => exact .inl (by simp [FramerCommand])
  | csrr | rdlen | rdb | sum16 | crc16 | flet16 | cksum | seqget | txseqget | gver | gtype | gshf |
      gapid | gseqf | gseq | glenf | gplen | gcoarse | gfine | gcki =>
    exact .inr ((readsOnly_of_readingCommand (by simp [ReadingCommand])).answersOn rfl)
  | nop | seqchk | seqnext => exact .inr (answersOn_respond _ rfl)
  | csrw n v => exact .inr ((answersOn_csrw n v).mono fun _ => And.right)
  | rxproc => exact .inr (answersOn_rxproc.mono fun _ => And.right)
  | setlen | appb => exact .inr (answersOn_ite (answersOn_raise _ rfl) (answersOn_respond _ rfl))
  | shdr =>
    exact .inr (answersOn_ite (answersOn_raise _ rfl)
      (answersOn_ite (answersOn_raise _ rfl) (answersOn_respond _ rfl)))
  | txproc =>
    exact .inr (answersOn_ite (answersOn_raise _ rfl) (answersOn_ite (answersOn_raise _ rfl)
      (answersOn_ite (answersOn_raise _ rfl) (answersOn_respond _ rfl))))
  | wrb | sfine => exact .inr (answersOn_store (memWrite1_ok _) (memWrite1_error _))
  | slenf => exact .inr (answersOn_store (memWrite2_ok _) (memWrite2_error _))
  | scoarse => exact .inr (answersOn_store (memWrite4_ok _) (memWrite4_error _))
  | scki => exact .inr (answersOn_store (memUpdate1_ok _) (memUpdate1_error _))
  | sver | stype | sshf | sapid | sseqf | sseq =>
    exact .inr (answersOn_store (memUpdate2_ok _) (memUpdate2_error _))

/-- Settles O55: BUF and the framer by their own lemmas, every other part by the effect the command
had. -/
theorem stateIsReachedOnlyByItsCommands : Obligations.StateIsReachedOnlyByItsCommands := by
  intro i s t hexec
  have hbuf : NonBufferCommand i → t.buf = s.buf := fun hi => by
    obtain ⟨u, rsp, event, hkept, rfl⟩ := (hexec ▸ exec_keeps_buf hi s).of_next
    exact hkept
  have hfr : t.fr ≠ s.fr → FramerCommand i := fun hne => by
    refine (exec_keeps_framer i s).resolve_right fun hanswers => ?_
    obtain ⟨u, rsp, event, hkept, rfl⟩ := (hexec ▸ hanswers).of_next
    exact hne hkept
  obtain ⟨u, rsp, event, heffect, rfl⟩ :=
    ((answers_iff_answersOn _ _ _).1 (hexec ▸ exec_answers i s)).of_next
  obtain ⟨hparams, hport⟩ := heffect.inputs
  exact ⟨hparams, hport, heffect.rxSeq, heffect.txSeq, heffect.csr, heffect.rx, heffect.tx, hfr,
    heffect.len, hbuf⟩

end Sys2Proof.Machine

/-! The decoder and the encoder agree (30_encoding.md R80, R81, R83 to R86): what the decoder accepts, the
three fields of a command's word, and that the encoder keeps exactly the operand bits of a raw command. -/

namespace Sys2Proof

section
open Laws

/-- A word is its three fields put together (R80). -/
theorem packWord_splitWord (w : PortWord) :
    packWord (splitWord w).op (splitWord w).a (splitWord w).b = w := by
  have hhigh : w.extractLsb' 56 8 ++ w.extractLsb' 32 24 = w.extractLsb' 32 32 :=
    BitVec.extractLsb'_append_extractLsb'_eq_extractLsb' rfl
  have hlow : w.setWidth 32 = w.extractLsb' 0 32 := BitVec.setWidth_eq_extractLsb' (by decide)
  calc w.extractLsb' 56 8 ++ w.extractLsb' 32 24 ++ w.setWidth 32
      = w.extractLsb' 32 32 ++ w.extractLsb' 0 32 := by rw [hhigh, hlow]
    _ = w.extractLsb' 0 64 := BitVec.extractLsb'_append_extractLsb'_eq_extractLsb' rfl
    _ = w := BitVec.extractLsb'_eq_self

/-- The decoder accepts a word when its opcode selects a command and its fields are legal, and then
answers that command (R81, R84). -/
theorem decode_eq_ok_iff (w : PortWord) (i : Instr) :
    decode w = .ok i ↔ buildInstr (splitWord w) = some i ∧ (splitWord w).wellFormed = true := by
  cases hbuild : buildInstr (splitWord w) with
  | none => simp [decode, hbuild]
  | some j => cases hlegal : (splitWord w).wellFormed <;> simp [decode, hbuild, hlegal]

/-- A raw command of an assigned opcode is legal when its operands fit the widths of the opcode's row. -/
theorem wellFormed_iff {c : RawCommand} {wa wb : Nat} (h : operandWidths c.op = some (wa, wb)) :
    c.wellFormed = true ↔ c.a.toNat < 2 ^ wa ∧ c.b.toNat < 2 ^ wb := by
  simp [RawCommand.wellFormed, RawCommand.opAssigned, RawCommand.aClear, RawCommand.bClear, h]

/-- A legal raw command has an assigned opcode. -/
theorem operandWidths_of_wellFormed {c : RawCommand} (h : c.wellFormed = true) :
    ∃ wa wb, operandWidths c.op = some (wa, wb) := by
  cases hwidths : operandWidths c.op with
  | none => simp [RawCommand.wellFormed, RawCommand.opAssigned, hwidths] at h
  | some widths => exact ⟨widths.1, widths.2, rfl⟩

/-! ### Decoding what was encoded -/

/-- The five fields of the operand of `SHDR` are read back from it (R86). -/
theorem shdrOperand_fields (type shf : BitVec 1) (apid : Apid) (seqf : BitVec 2) (seq : SeqCount) :
    (shdrOperand type shf apid seqf seq).extractLsb' 28 1 = type ∧
    (shdrOperand type shf apid seqf seq).extractLsb' 27 1 = shf ∧
    (shdrOperand type shf apid seqf seq).extractLsb' 16 11 = apid ∧
    (shdrOperand type shf apid seqf seq).extractLsb' 14 2 = seqf ∧
    (shdrOperand type shf apid seqf seq).setWidth 14 = seq := by
  refine ⟨?_, ?_, ?_, ?_, ?_⟩
  all_goals
    apply BitVec.eq_of_getLsbD_eq
    intro j hj
    simp only [shdrOperand, BitVec.getLsbD_append, BitVec.getLsbD_setWidth,
      BitVec.getLsbD_extractLsb']
    grind

/-- The opcode of a command's word selects the command, with the operands it was given. -/
theorem buildInstr_encode (i : Instr) : buildInstr (splitWord (encode i)) = some i := by
  cases i with
  | nop | srst | csrr | csrw | setlen | rdlen | rdb | sum16 | crc16 | flet16 | cksum | gver | gtype
  | gshf | gapid | gseqf | gseq | glenf | gplen | gcoarse | gfine | gcki | scoarse | finit | feof
  | ftake | frst | rxproc => exact congrArg buildInstr (splitWord_packWord _ _ _)
  | wrb | appb | sver | stype | sshf | sapid | sseqf | sseq | slenf | sfine | scki | fpush | seqchk
  | seqget | txproc | seqnext | txseqget =>
    simp [encode, splitWord_packWord, buildInstr]
  | shdr type shf apid seqf seq =>
    obtain ⟨htype, hshf, hapid, hseqf, hseq⟩ := shdrOperand_fields type shf apid seqf seq
    simp [encode, splitWord_packWord, buildInstr, htype, hshf, hapid, hseqf, hseq]

/-- Every command's word is legal, by the lemma of the family `EncodesLegalWord` for the command. -/
theorem encodesLegalWord (i : Instr) : EncodesLegalWord.Statement i := by
  cases i with
  | nop => exact EncodesLegalWord.nop
  | srst => exact EncodesLegalWord.srst
  | csrr => exact EncodesLegalWord.csrr _
  | csrw => exact EncodesLegalWord.csrw _ _
  | setlen => exact EncodesLegalWord.setlen _
  | rdlen => exact EncodesLegalWord.rdlen
  | rdb => exact EncodesLegalWord.rdb _
  | wrb => exact EncodesLegalWord.wrb _ _
  | appb => exact EncodesLegalWord.appb _
  | sum16 => exact EncodesLegalWord.sum16 _ _
  | crc16 => exact EncodesLegalWord.crc16 _ _
  | flet16 => exact EncodesLegalWord.flet16 _ _
  | cksum => exact EncodesLegalWord.cksum _ _
  | gver => exact EncodesLegalWord.gver
  | gtype => exact EncodesLegalWord.gtype
  | gshf => exact EncodesLegalWord.gshf
  | gapid => exact EncodesLegalWord.gapid
  | gseqf => exact EncodesLegalWord.gseqf
  | gseq => exact EncodesLegalWord.gseq
  | glenf => exact EncodesLegalWord.glenf
  | gplen => exact EncodesLegalWord.gplen
  | gcoarse => exact EncodesLegalWord.gcoarse
  | gfine => exact EncodesLegalWord.gfine
  | gcki => exact EncodesLegalWord.gcki
  | sver => exact EncodesLegalWord.sver _
  | stype => exact EncodesLegalWord.stype _
  | sshf => exact EncodesLegalWord.sshf _
  | sapid => exact EncodesLegalWord.sapid _
  | sseqf => exact EncodesLegalWord.sseqf _
  | sseq => exact EncodesLegalWord.sseq _
  | slenf => exact EncodesLegalWord.slenf _
  | shdr => exact EncodesLegalWord.shdr _ _ _ _ _
  | scoarse => exact EncodesLegalWord.scoarse _
  | sfine => exact EncodesLegalWord.sfine _
  | scki => exact EncodesLegalWord.scki _
  | finit => exact EncodesLegalWord.finit
  | fpush => exact EncodesLegalWord.fpush _
  | feof => exact EncodesLegalWord.feof
  | ftake => exact EncodesLegalWord.ftake
  | frst => exact EncodesLegalWord.frst
  | rxproc => exact EncodesLegalWord.rxproc
  | seqchk => exact EncodesLegalWord.seqchk _ _
  | seqget => exact EncodesLegalWord.seqget _
  | txproc => exact EncodesLegalWord.txproc _ _
  | seqnext => exact EncodesLegalWord.seqnext _
  | txseqget => exact EncodesLegalWord.txseqget _

/-- Settles O1: the word of a command is legal and its fields select the command. -/
theorem decodeOfEncode : Obligations.DecodeOfEncode := fun i =>
  (decode_eq_ok_iff _ _).2 ⟨buildInstr_encode i, encodesLegalWord i⟩

/-! ### Encoding what was decoded -/

/-- The low `k` bits of an operand field, the bits above them 0. -/
def lowBits {n : Nat} (k : Nat) (v : BitVec n) : BitVec n := (v.setWidth k).setWidth n

/-- An operand narrowed to its width and widened again, as decoding and encoding do. -/
theorem setWidth_setWidth_eq_lowBits {n : Nat} (k : Nat) (v : BitVec n) :
    (v.setWidth k).setWidth n = lowBits k v := rfl

@[simp] theorem lowBits_zero {n : Nat} (v : BitVec n) : lowBits 0 v = 0 := by
  simp [lowBits, BitVec.of_length_zero]

@[simp] theorem lowBits_self {n : Nat} (v : BitVec n) : lowBits n v = v := by simp [lowBits]

theorem lowBits_of_lt {n k : Nat} {v : BitVec n} (h : v.toNat < 2 ^ k) : lowBits k v = v := by
  apply BitVec.eq_of_toNat_eq
  rw [lowBits, BitVec.toNat_setWidth, BitVec.toNat_setWidth, Nat.mod_eq_of_lt h,
    Nat.mod_eq_of_lt v.isLt]

/-- The five fields of an operand of `SHDR` put together again (R86). -/
theorem shdrOperand_of_fields (b : Word) :
    shdrOperand (b.extractLsb' 28 1) (b.extractLsb' 27 1) (b.extractLsb' 16 11)
      (b.extractLsb' 14 2) (b.setWidth 14) = lowBits 29 b := by
  rw [BitVec.setWidth_eq_extractLsb' (w := 14) (by decide)]
  apply BitVec.eq_of_getLsbD_eq
  intro j hj
  simp only [shdrOperand, lowBits, BitVec.getLsbD_append, BitVec.getLsbD_setWidth,
    BitVec.getLsbD_extractLsb']
  grind

theorem eq_ofNat_of_toNat_eq {op : Byte} {k : Nat} (h : op.toNat = k) : op = BitVec.ofNat 8 k := by
  rw [← h, BitVec.ofNat_toNat, BitVec.setWidth_eq]

/-- The word of the command an opcode selects keeps the opcode and exactly the operand bits of its row
(R81, R83). -/
theorem encode_of_buildInstr {c : RawCommand} {i : Instr} (h : buildInstr c = some i) :
    ∃ wa wb, operandWidths c.op = some (wa, wb) ∧
      encode i = packWord c.op (lowBits wa c.a) (lowBits wb c.b) := by
  obtain ⟨op, a, b⟩ := c
  unfold buildInstr at h
  split at h
  case h_47 => cases h
  all_goals
    next hop =>
    obtain rfl := eq_ofNat_of_toNat_eq hop
    cases h
    refine ⟨_, _, rfl, ?_⟩
    simp [encode, setWidth_setWidth_eq_lowBits, shdrOperand_of_fields]

/-- Settles O2: the bits of a legal word that the encoder does not keep are 0 already. -/
theorem encodeOfDecode : Obligations.EncodeOfDecode := by
  intro w i hdecode
  obtain ⟨hbuild, hlegal⟩ := (decode_eq_ok_iff w i).1 hdecode
  obtain ⟨wa, wb, hwidths, hencode⟩ := encode_of_buildInstr hbuild
  obtain ⟨ha, hb⟩ := (wellFormed_iff hwidths).1 hlegal
  rw [hencode, lowBits_of_lt ha, lowBits_of_lt hb, packWord_splitWord]

/-! ### The opcode table -/

/-- Every assigned opcode selects a command. -/
theorem exists_buildInstr {c : RawCommand} {wa wb : Nat} (h : operandWidths c.op = some (wa, wb)) :
    ∃ i, buildInstr c = some i := by
  obtain ⟨op, a, b⟩ := c
  unfold operandWidths at h
  split at h
  case h_47 => cases h
  all_goals
    next hop =>
    obtain rfl := eq_ofNat_of_toNat_eq hop
    exact ⟨_, rfl⟩

/-- The decoder accepts exactly the legal words (R84). -/
theorem exists_decode_iff (w : PortWord) :
    (∃ i, decode w = .ok i) ↔ (splitWord w).wellFormed = true := by
  constructor
  · rintro ⟨i, hdecode⟩
    exact ((decode_eq_ok_iff w i).1 hdecode).2
  · intro hlegal
    obtain ⟨wa, wb, hwidths⟩ := operandWidths_of_wellFormed hlegal
    obtain ⟨i, hbuild⟩ := exists_buildInstr hwidths
    exact ⟨i, (decode_eq_ok_iff w i).2 ⟨hbuild, hlegal⟩⟩

/-- The row of an assigned opcode: its match holds the opcode, its mask every bit that is no operand
(R81, R83). -/
def opcodeRow (op : Byte) : Option (PortWord × PortWord) :=
  (operandWidths op).map fun widths =>
    (packWord op 0 0,
      packWord 0xFF (BitVec.allOnes 24 <<< widths.1) (BitVec.allOnes 32 <<< widths.2))

/-- The opcode table is the rows of the assigned opcodes, by rising opcode. -/
theorem opcodeRows_eq :
    opcodeRows = ((List.range 256).map (BitVec.ofNat 8)).filterMap opcodeRow := by decide

theorem mem_opcodeRows_iff (r : PortWord × PortWord) :
    r ∈ opcodeRows ↔ ∃ op, opcodeRow op = some r := by
  rw [opcodeRows_eq, List.mem_filterMap]
  refine exists_congr fun op => and_iff_right (List.mem_map.2 ⟨op.toNat, ?_, ?_⟩)
  · exact List.mem_range.2 op.isLt
  · exact (eq_ofNat_of_toNat_eq rfl).symm

/-- Two words are the same when their three fields are (R80). -/
theorem packWord_inj {op op' : Byte} {a a' : BitVec 24} {b b' : Word} :
    packWord op a b = packWord op' a' b' ↔ op = op' ∧ a = a' ∧ b = b' := by
  constructor
  · intro h
    have hsplit := congrArg splitWord h
    rw [splitWord_packWord, splitWord_packWord] at hsplit
    simpa using hsplit
  · rintro ⟨rfl, rfl, rfl⟩
    rfl

theorem packWord_and (op op' : Byte) (a a' : BitVec 24) (b b' : Word) :
    packWord op a b &&& packWord op' a' b' = packWord (op &&& op') (a &&& a') (b &&& b') := by
  rw [packWord, packWord, BitVec.and_append, BitVec.and_append]
  rfl

/-- The bits from `k` up are 0 when the value is below `2 ^ k`. -/
theorem and_allOnes_shiftLeft_eq_zero_iff {n : Nat} (v : BitVec n) (k : Nat) :
    v &&& BitVec.allOnes n <<< k = 0 ↔ v.toNat < 2 ^ k := by
  constructor
  · intro h
    refine Nat.lt_pow_two_of_testBit _ fun j hj => ?_
    obtain hjn | hjn := Nat.lt_or_ge j n
    · have hbit : (v &&& BitVec.allOnes n <<< k).getLsbD j = false :=
        h ▸ BitVec.getLsbD_zero
      have hmask : (BitVec.allOnes n <<< k).getLsbD j = true := by
        simp [hjn, not_lt.2 hj]
      rwa [BitVec.getLsbD_and, hmask, Bool.and_true] at hbit
    · exact BitVec.getLsbD_of_ge v j hjn
  · intro h
    apply BitVec.eq_of_getLsbD_eq
    intro j hj
    obtain hlow | hhigh := Nat.lt_or_ge j k
    · simp [hlow]
    · have hbit : v.getLsbD j = false :=
        Nat.testBit_lt_two_pow (h.trans_le (Nat.pow_le_pow_right (by decide) hhigh))
      simp [hbit]

/-- A word matches the row of an opcode when it is a legal command of that opcode (R81). -/
theorem matches_opcodeRow_iff {op : Byte} {r : PortWord × PortWord} (h : opcodeRow op = some r)
    (w : PortWord) :
    w &&& r.2 = r.1 ↔ (splitWord w).op = op ∧ (splitWord w).wellFormed = true := by
  obtain ⟨⟨wa, wb⟩, hwidths, rfl⟩ := Option.map_eq_some_iff.1 h
  have hop (x : Byte) : x &&& 0xFF = x := BitVec.and_allOnes
  calc w &&& packWord 0xFF (BitVec.allOnes 24 <<< wa) (BitVec.allOnes 32 <<< wb) = packWord op 0 0
      ↔ (splitWord w).op = op ∧ (splitWord w).a.toNat < 2 ^ wa ∧ (splitWord w).b.toNat < 2 ^ wb := by
        rw [← packWord_splitWord w, packWord_and, packWord_inj, hop,
          and_allOnes_shiftLeft_eq_zero_iff, and_allOnes_shiftLeft_eq_zero_iff, packWord_splitWord]
    _ ↔ _ := and_congr_right fun hw => (wellFormed_iff (hw ▸ hwidths)).symm

/-- A word matches some row of the table when it is a legal command (R81, R84). -/
theorem matches_some_row_iff (w : PortWord) :
    (∃ r ∈ opcodeRows, w &&& r.2 = r.1) ↔ (splitWord w).wellFormed = true := by
  constructor
  · rintro ⟨r, hr, hmatch⟩
    obtain ⟨op, hrow⟩ := (mem_opcodeRows_iff r).1 hr
    exact ((matches_opcodeRow_iff hrow w).1 hmatch).2
  · intro hlegal
    obtain ⟨wa, wb, hwidths⟩ := operandWidths_of_wellFormed hlegal
    have hrow : opcodeRow (splitWord w).op = some _ := congrArg (Option.map _) hwidths
    exact ⟨_, (mem_opcodeRows_iff _).2 ⟨_, hrow⟩, (matches_opcodeRow_iff hrow w).2 ⟨rfl, hlegal⟩⟩

/-- Settles O3: both the decoder and the table accept the legal words, and the opcode of a word
determines the row it can match. -/
theorem decoderAcceptsExactlyTheTable : Obligations.DecoderAcceptsExactlyTheTable := by
  refine fun w => ⟨(exists_decode_iff w).trans (matches_some_row_iff w).symm, ?_⟩
  intro r hr r' hr' hmatch hmatch'
  obtain ⟨op, hrow⟩ := (mem_opcodeRows_iff r).1 hr
  obtain ⟨op', hrow'⟩ := (mem_opcodeRows_iff r').1 hr'
  obtain ⟨rfl, -⟩ := (matches_opcodeRow_iff hrow w).1 hmatch
  obtain ⟨rfl, -⟩ := (matches_opcodeRow_iff hrow' w).1 hmatch'
  exact Option.some.inj (hrow.symm.trans hrow')

/-! ### Words of the spec -/

/-- A word written out as the encoding of a command decodes to it. -/
theorem decode_of_encode_eq {w : PortWord} {i : Instr} (h : encode i = w) : decode w = .ok i :=
  h ▸ decodeOfEncode i

/-- Settles O4: eight of the words are encodings; the two others fail one check each. -/
theorem specWordsDecode : Obligations.SpecWordsDecode :=
  ⟨decode_of_encode_eq rfl, decode_of_encode_eq rfl, decode_of_encode_eq rfl,
    decode_of_encode_eq rfl, decode_of_encode_eq rfl, decode_of_encode_eq rfl,
    decode_of_encode_eq rfl, decode_of_encode_eq rfl, rfl, rfl⟩

end

end Sys2Proof

/-! What is answered with E_ILLEGAL (30_encoding.md R84, 10_state.md R31). -/

namespace Sys2Proof.Machine

/-- A word that matches no row of the opcode table is not executed: E_ILLEGAL (R84). -/
theorem step_of_no_row {s : State} {w : PortWord} {rest : List PortSample}
    (hport : s.port = commandSample w :: rest) (hrow : ∀ r ∈ opcodeRows, w &&& r.2 ≠ r.1) :
    step s = .next (failed 1 { s with port := rest }) := by
  cases hdecode : decode w with
  | error e =>
    rw [step_of_illegal (portRequest_of_command hport) hdecode, portTaken_of_cons hport]
    exact raise_eq .illegal _
  | ok i =>
    obtain ⟨hiff, -⟩ := decoderAcceptsExactlyTheTable w
    obtain ⟨r, hr, hmatch⟩ := hiff.1 ⟨i, hdecode⟩
    exact absurd hmatch (hrow r hr)

theorem execCsrr_of_no_num {n : BitVec 24} (hnum : csrOfNum n = none) (s : State) :
    execCsrr n s = raise .illegal s := by
  simp [execCsrr, hnum]

/-- A write to a read-only register is refused before its value is looked at (R31). -/
theorem csrWrite_of_readOnly {r : CsrName} (hr : csrReadOnly r = true) (s : State) (v : Word) :
    csrWrite s r v = .error .illegal := by
  rw [csrWrite, if_pos hr]

/-- Settles O6, one cause of E_ILLEGAL after the other. -/
theorem illegalCommandsAnswerIllegal : Obligations.IllegalCommandsAnswerIllegal := by
  refine fun s => ⟨fun w rest hport hrow => step_of_no_row hport hrow, fun n hnum => ?unassignedRead,
    fun n v hnum => ?unassignedWrite, fun n r v hnum hr => ?readOnly⟩
  case unassignedRead => exact (execCsrr_of_no_num hnum s).trans (raise_eq .illegal s)
  case unassignedWrite => exact (execCsrw_of_no_num hnum v s).trans (raise_eq .illegal s)
  case readOnly =>
    calc execCsrw n v s = finishWrite (csrWrite s r v) s := execCsrw_of_num hnum v s
      _ = finishWrite (.error .illegal) s := by rw [csrWrite_of_readOnly hr]
      _ = .next (failed 1 s) := finishWrite_error .illegal s

end Sys2Proof.Machine

/-! Every command answers one well-formed response, and every step a next state (60_exceptions.md R271). -/

namespace Sys2Proof.Machine

/-- What R82 and R260 ask of a response word: bits 63:40 are 0, the code at most 8, the value 0 on an
error. -/
def WellFormedResponse (w : PortWord) : Prop :=
  w.toNat < 2 ^ 40 ∧ errField w ≤ 8 ∧ (errField w ≠ 0 → valField w = 0)

/-- The response of a success has code 0. -/
theorem wellFormedResponse_ok (v : Word) : WellFormedResponse (v.setWidth 64) := by
  have hval : (v.setWidth 64).toNat = v.toNat := BitVec.toNat_setWidth_of_le (by decide)
  have hlt := v.isLt
  have herr : errField (v.setWidth 64) = 0 := by
    rw [errField, hval, Nat.div_eq_of_lt hlt]
  refine ⟨?_, ?_, fun hne => absurd herr hne⟩
  · omega
  · omega

/-- The response of an error has one of the codes 1 to 8 and value 0. -/
theorem wellFormedResponse_error (e : ErrCode) :
    WellFormedResponse (BitVec.ofNat 64 ((errCode e).toNat * 2 ^ 32)) := by
  cases e <;> exact ⟨by decide, by decide, fun _ => rfl⟩

/-- A command's answer is a next state with a well-formed response. -/
theorem Answers.wellFormed {i : Instr} {s : State} {r : Result} (h : Answers i s r) :
    ∃ t w, r = .next t ∧ t.rsp = some w ∧ WellFormedResponse w := by
  obtain ⟨u, -, ⟨v, rfl⟩ | ⟨e, rfl⟩⟩ := h
  · exact ⟨_, _, rfl, answered_rsp v u, wellFormedResponse_ok v⟩
  · exact ⟨_, _, rfl, failed_rsp _ u, wellFormedResponse_error e⟩

/-- No command presents or takes a sample of the port (log 2). -/
theorem exec_keeps_port (i : Instr) (s : State) : ∃ t, exec i s = .next t ∧ t.port = s.port := by
  obtain ⟨u, heffect, ⟨v, hexec⟩ | ⟨e, hexec⟩⟩ := exec_answers i s
  · exact ⟨_, hexec, heffect.inputs.2⟩
  · exact ⟨_, hexec, heffect.inputs.2⟩

/-- A step takes the head sample of the port, whatever it asks for. -/
theorem step_takes_sample (s : State) : ∃ t, step s = .next t ∧ t.port = s.port.tail := by
  obtain hidle | hreset | hillegal | ⟨i, hexec⟩ := step_cases s
  · exact ⟨_, hidle, rfl⟩
  · exact ⟨_, hreset, rfl⟩
  · exact ⟨_, hillegal, rfl⟩
  · rw [hexec]
    exact exec_keeps_port i (portTaken s)

/-- Settles O51, by the one form every command's answer has. -/
theorem everyCommandAnswersOnce : Obligations.EveryCommandAnswersOnce :=
  ⟨fun i s => (exec_answers i s).wellFormed, step_takes_sample⟩

end Sys2Proof.Machine

/-! Loading a packet with LDPKT (30_encoding.md R88): SETLEN 0, then one APPB per byte. -/

namespace Sys2Proof.Machine

theorem runCommands_nil (s : State) : runCommands [] s = .next s := rfl

theorem runCommands_cons_of_next {i : Instr} {is : List Instr} {s t : State}
    (h : exec i s = .next t) : runCommands (i :: is) s = runCommands is t := by
  rw [runCommands, h]

theorem execSetlen_of_le {n : Word} {s : State} (h : n.toNat ≤ s.params.bufsz) :
    execSetlen n s = .next (answered 0 (setLength s n.toNat)) := by
  rw [execSetlen, if_neg (not_lt.2 h), respond_eq]

/-- The state after APPB of `byte` where it fits (46_buffer_system.md R248). -/
def appended (byte : Byte) (s : State) : State :=
  answered (BitVec.ofNat 32 (s.len + 1))
    { s with buf := Memory.write s.buf s.len byte, len := s.len + 1 }

theorem execAppb_of_lt {byte : Byte} {s : State} (h : s.len < s.params.bufsz) :
    execAppb byte s = .next (appended byte s) := by
  rw [execAppb, if_neg (not_le.2 h), respond_eq, appended]

/-- `t` is `s` but for the packet and the response. -/
def OnlyPacketAndResponse (s t : State) : Prop :=
  { t with buf := s.buf, len := s.len, rsp := s.rsp } = s

theorem OnlyPacketAndResponse.trans {s t u : State} (hst : OnlyPacketAndResponse s t)
    (htu : OnlyPacketAndResponse t u) : OnlyPacketAndResponse s u := by
  unfold OnlyPacketAndResponse at *
  rw [← htu] at hst
  exact hst

/-- `t` is `s` with `bytes` appended to the packet, but for the response. -/
structure Appends (s : State) (bytes : List Byte) (t : State) : Prop where
  len : t.len = s.len + bytes.length
  kept : ∀ a, a < s.len → Memory.read t.buf a = Memory.read s.buf a
  added : ∀ (k : Nat) (h : k < bytes.length), Memory.read t.buf (s.len + k) = bytes[k]
  frame : OnlyPacketAndResponse s t

theorem appends_nil (s : State) : Appends s [] s :=
  ⟨rfl, fun _ _ => rfl, fun _ h => absurd h (Nat.not_lt_zero _), rfl⟩

/-- The first of the bytes appended, then the rest. -/
theorem appends_cons {s t : State} {byte : Byte} {bytes : List Byte}
    (h : Appends (appended byte s) bytes t) : Appends s (byte :: bytes) t := by
  have hlen : (appended byte s).len = s.len + 1 := rfl
  have hread (a : Nat) : Memory.read (appended byte s).buf a =
      if a = s.len then byte else Memory.read s.buf a := memory_read_write s.buf s.len byte a
  have hframe : OnlyPacketAndResponse s (appended byte s) := rfl
  refine ⟨?len, fun a ha => ?kept, fun k hk => ?added, hframe.trans h.frame⟩
  case len => rw [h.len, hlen, List.length_cons]; omega
  case kept => rw [h.kept a (by omega), hread, if_neg (by omega)]
  case added =>
    cases k with
    | zero => rw [h.kept _ (by omega), hread, if_pos (by omega), List.getElem_cons_zero]
    | succ k =>
      have hk' := h.added k (Nat.lt_of_succ_lt_succ hk)
      rw [List.getElem_cons_succ, ← hk', hlen, Nat.add_right_comm, Nat.add_assoc]

/-- A run of APPB appends its bytes where they fit (R248). -/
theorem runCommands_appb (bytes : List Byte) (s : State)
    (hfit : s.len + bytes.length ≤ s.params.bufsz) :
    ∃ t, runCommands (bytes.map Instr.appb) s = .next t ∧ Appends s bytes t := by
  induction bytes generalizing s with
  | nil => exact ⟨s, runCommands_nil s, appends_nil s⟩
  | cons byte bytes ih =>
    rw [List.length_cons] at hfit
    have hexec : exec (.appb byte) s = .next (appended byte s) := execAppb_of_lt (by omega)
    have hrest : (appended byte s).len + bytes.length ≤ s.params.bufsz := by
      have hlen : (appended byte s).len = s.len + 1 := rfl
      omega
    obtain ⟨t, hrun, happends⟩ := ih (appended byte s) hrest
    exact ⟨t, (runCommands_cons_of_next hexec).trans hrun, appends_cons happends⟩

/-- Settles O17: SETLEN 0 empties the packet, and the bytes are appended to it. -/
theorem ldpktLoadsThePacket : Obligations.LdpktLoadsThePacket := by
  intro s bytes hfit
  have hexec : exec (.setlen 0) s = .next (answered 0 (setLength s 0)) :=
    execSetlen_of_le (Nat.zero_le _)
  obtain ⟨t, hrun, happends⟩ := runCommands_appb bytes (answered 0 (setLength s 0))
    (by rwa [answered_len, setLength_len, Nat.zero_add])
  refine ⟨t, (runCommands_cons_of_next hexec).trans hrun, ?len, fun k hk => ?added, ?frame⟩
  case len => rw [happends.len, answered_len, setLength_len, Nat.zero_add]
  case added => rw [← happends.added k hk, answered_len, setLength_len, Nat.zero_add]
  case frame =>
    have hframe : OnlyPacketAndResponse s (answered 0 (setLength s 0)) := rfl
    exact hframe.trans happends.frame

end Sys2Proof.Machine

/-! What the checksum commands answer (41_checksum.md R100 to R111): the range rule they share, then each
command's sum over the bytes of its range. -/

namespace Sys2Proof.Machine

section
variable {off : BitVec 24} {n : Word} {s : State}

/-- A range inside the packet is answered with the sum over its bytes (R100). -/
theorem overRange_of_le (f : List Byte → Half) (h : off.toNat + n.toNat ≤ s.len) :
    overRange off n f s =
      .next (answered ((f (Memory.bytes s.buf off.toNat n.toNat)).setWidth 32) s) := by
  rw [overRange, if_pos h, respond_eq]

/-- A range that leaves the packet is E_BOUNDS (R100). -/
theorem overRange_of_lt (f : List Byte → Half) (h : s.len < off.toNat + n.toNat) :
    overRange off n f s = .next (failed 2 s) := by
  rw [overRange, if_neg (not_le.2 h)]
  exact raise_eq .bounds s

theorem answered_inj {v w : Word} : answered v s = answered w s ↔ v = w := by
  refine ⟨fun h => ?_, congrArg (answered · s)⟩
  have hrsp : some (v.setWidth 64) = some (w.setWidth 64) := congrArg State.rsp h
  have hnat := congrArg BitVec.toNat (Option.some.inj hrsp)
  rw [BitVec.toNat_setWidth_of_le (by decide), BitVec.toNat_setWidth_of_le (by decide)] at hnat
  exact BitVec.eq_of_toNat_eq hnat

/-- A success has code 0 in bits 39:32 of the response, an error has not (30_encoding.md R82). -/
theorem failed_ne_answered (e : ErrCode) (v : Word) : failed (errCode e).toNat s ≠ answered v s := by
  intro h
  have hrsp : some (BitVec.ofNat 64 ((errCode e).toNat * 2 ^ 32)) = some (v.setWidth 64) :=
    congrArg State.rsp h
  have hnat := congrArg BitVec.toNat (Option.some.inj hrsp)
  rw [BitVec.toNat_setWidth_of_le (by decide)] at hnat
  have hlt := v.isLt
  have hle : 2 ^ 32 ≤ (BitVec.ofNat 64 ((errCode e).toNat * 2 ^ 32)).toNat := by cases e <;> decide
  omega

/-- A value is answered exactly for the ranges inside the packet, and then it is the sum. -/
theorem overRange_eq_answered_iff {f : List Byte → Half} {v : Word} :
    overRange off n f s = .next (answered v s) ↔
      off.toNat + n.toNat ≤ s.len ∧
        (f (Memory.bytes s.buf off.toNat n.toNat)).setWidth 32 = v := by
  obtain hout | hin := Nat.lt_or_ge s.len (off.toNat + n.toNat)
  · rw [overRange_of_lt f hout, Host.Outcome.next.injEq]
    exact iff_of_false (failed_ne_answered .bounds v) fun h => absurd h.1 (not_le.2 hout)
  · rw [overRange_of_le f hin, Host.Outcome.next.injEq, answered_inj]
    exact (and_iff_right hin).symm

/-- The range rule looks at the sum over the range's own bytes only. -/
theorem overRange_congr {f g : List Byte → Half}
    (h : f (Memory.bytes s.buf off.toNat n.toNat) = g (Memory.bytes s.buf off.toNat n.toNat)) :
    overRange off n f s = overRange off n g s := by
  rw [overRange, overRange, h]

/-- A 16-bit sum keeps its value in the 32 bits of the response. -/
theorem toNat_setWidth_half (c : Half) : (c.setWidth 32).toNat = c.toNat :=
  BitVec.toNat_setWidth_of_le (by decide)

theorem setWidth_setWidth_half (c : Half) : (c.setWidth 32).setWidth 16 = c := by
  apply BitVec.eq_of_toNat_eq
  rw [BitVec.toNat_setWidth, toNat_setWidth_half, Nat.mod_eq_of_lt c.isLt]

end

/-- The last byte of a range apart from those before it. -/
theorem memory_bytes_succ (m : Memory) (off n : Nat) :
    Memory.bytes m off (n + 1) = Memory.bytes m off n ++ [Memory.read m (off + n)] :=
  memory_bytes_add m off n 1

end Sys2Proof.Machine

/-! SUM16 (41_checksum.md R101, R102). -/

namespace Sys2Proof.Machine

section
variable {off : BitVec 24} {n : Word} {s : State}

/-- An odd count is E_INVARG, whatever the range (R101). -/
theorem exec_sum16_of_odd (h : n.toNat % 2 = 1) :
    exec (.sum16 off n) s = .next (failed 3 s) := by
  calc exec (.sum16 off n) s = raise .invarg s := if_pos h
    _ = .next (failed 3 s) := raise_eq .invarg s

theorem exec_sum16_of_even (h : n.toNat % 2 = 0) :
    exec (.sum16 off n) s = overRange off n (sum16From 0) s :=
  if_neg (by omega)

/-- SUM16 that answers a value was given an even count inside the packet. -/
theorem exec_sum16_eq_answered_iff {v : Word} :
    exec (.sum16 off n) s = .next (answered v s) ↔
      n.toNat % 2 = 0 ∧ off.toNat + n.toNat ≤ s.len ∧
        (sum16From 0 (Memory.bytes s.buf off.toNat n.toNat)).setWidth 32 = v := by
  obtain heven | hodd := Nat.mod_two_eq_zero_or_one n.toNat
  · rw [exec_sum16_of_even heven, overRange_eq_answered_iff]
    exact (and_iff_right heven).symm
  · rw [exec_sum16_of_odd hodd, Host.Outcome.next.injEq]
    exact iff_of_false (failed_ne_answered .invarg v) fun h => by omega

end

/-- A pair of bytes more in front enters the sum, and the sum runs on from there. -/
theorem sum16From_bytes_cons (m : Memory) (off k : Nat) (c : Half) :
    sum16From c (Memory.bytes m off (2 * (k + 1))) =
      sum16From (c + Memory.read2 m off) (Memory.bytes m (off + 2) (2 * k)) := rfl

/-- A pair of bytes more at the end adds its word. -/
theorem sum16From_bytes_succ (m : Memory) (off k : Nat) (c : Half) :
    sum16From c (Memory.bytes m off (2 * (k + 1))) =
      sum16From c (Memory.bytes m off (2 * k)) + Memory.read2 m (off + 2 * k) := by
  induction k generalizing off c with
  | zero => rfl
  | succ k ih =>
    rw [sum16From_bytes_cons, ih, ← sum16From_bytes_cons, Nat.add_assoc, Nat.add_comm 2,
      Nat.mul_succ 2 k]

/-- The sum over `k` big-endian words, reduced modulo 2^16 once at the end. -/
theorem toNat_sum16From_bytes (s : State) (off k : Nat) :
    (sum16From 0 (Memory.bytes s.buf off (2 * k))).toNat =
      (∑ j ∈ Finset.range k, (byteAt s (off + 2 * j) * 256 + byteAt s (off + 2 * j + 1))) %
        65536 := by
  induction k with
  | zero => rfl
  | succ k ih =>
    rw [sum16From_bytes_succ, BitVec.toNat_add, ih, memory_read2_toNat, Finset.sum_range_succ]
    exact Nat.mod_add_mod _ _ _

/-- Settles O18: parity, then the range, then the sum over half as many words as there are bytes. -/
theorem sum16AddsBigEndianWords : Obligations.Sum16AddsBigEndianWords := by
  refine fun s off n => ⟨fun hodd => exec_sum16_of_odd hodd, fun heven hout => ?outside,
    fun heven hin => ?inside⟩
  case outside => rw [exec_sum16_of_even heven, overRange_of_lt _ hout]
  case inside =>
    refine ⟨_, exec_sum16_eq_answered_iff.2 ⟨heven, hin, rfl⟩, ?_⟩
    have hcount : n.toNat = 2 * (n.toNat / 2) := by omega
    rw [toNat_setWidth_half, ← toNat_sum16From_bytes, ← hcount]

/-- Settles O19: the word added last is the negation of the sum before it. -/
theorem negatedSumBringsSumToZero : Obligations.NegatedSumBringsSumToZero := by
  intro s off n n' v hsum hn' hin hbytes
  obtain ⟨heven, -, rfl⟩ := exec_sum16_eq_answered_iff.1 hsum
  refine exec_sum16_eq_answered_iff.2 ⟨by omega, hin, ?_⟩
  obtain ⟨k, hk⟩ : ∃ k, n.toNat = 2 * k := ⟨n.toNat / 2, by omega⟩
  have hk' : n'.toNat = 2 * (k + 1) := by omega
  rw [toNat_setWidth_half, hk] at hbytes
  have hneg : Memory.read2 s.buf (off.toNat + 2 * k) =
      -sum16From 0 (Memory.bytes s.buf off.toNat (2 * k)) := by
    apply BitVec.eq_of_toNat_eq
    rw [memory_read2_toNat, BitVec.toNat_neg]
    exact hbytes
  rw [hk', sum16From_bytes_succ, hneg, BitVec.add_right_neg]
  rfl

end Sys2Proof.Machine

/-! CRC16 (41_checksum.md R103 to R105). -/

namespace Sys2Proof.Machine

section
variable {off : BitVec 24} {n : Word} {s : State}

/-- CRC16 answers a value exactly for the ranges inside the packet: their CRC from CRCIV (R103). -/
theorem exec_crc16_eq_answered_iff {v : Word} :
    exec (.crc16 off n) s = .next (answered v s) ↔
      off.toNat + n.toNat ≤ s.len ∧
        (crc16From s.csr.crcIv (Memory.bytes s.buf off.toNat n.toNat)).setWidth 32 = v :=
  overRange_eq_answered_iff

end

/-- A left shift of the register drops the bit shifted out. -/
theorem toNat_shiftLeft_one (c : Half) : (c <<< 1).toNat = c.toNat * 2 % 65536 := by
  rw [BitVec.toNat_shiftLeft, Nat.shiftLeft_eq]

/-- The bit shifted out is bit 15. -/
theorem msb_iff_toNat_div (c : Half) : c.msb = true ↔ c.toNat / 32768 % 2 = 1 := by
  have hlt := c.isLt
  rw [BitVec.msb_eq_decide, decide_eq_true_iff]
  omega

theorem toNat_crcShift (c : Half) : (crcShift c).toNat = crcShiftNat c.toNat := by
  unfold crcShift crcShiftNat
  simp only [msb_iff_toNat_div]
  split
  · rw [BitVec.toNat_xor, toNat_shiftLeft_one]
    rfl
  · exact toNat_shiftLeft_one c

theorem toNat_crcShifts (k : Nat) (c : Half) : (crcShifts k c).toNat = crcShiftNat^[k] c.toNat := by
  induction k generalizing c with
  | zero => rfl
  | succ k ih => rw [crcShifts, ih, toNat_crcShift, Function.iterate_succ_apply]

/-- A byte moved to bits 15:8. -/
theorem toNat_append_zero (x : Byte) : (x ++ 0#8).toNat = x.toNat * 256 := by
  rw [BitVec.toNat_append, Nat.shiftLeft_eq]
  exact Nat.or_zero _

theorem toNat_crcByte (c : Half) (x : Byte) :
    (crcByte c x).toNat = crcShiftNat^[8] (c.toNat ^^^ (x.toNat * 256)) := by
  rw [crcByte, toNat_crcShifts, BitVec.toNat_xor, toNat_append_zero]

theorem toNat_crc16From_bytes (s : State) (off n : Nat) (c : Half) :
    (crc16From c (Memory.bytes s.buf off n)).toNat = crcLoopNat s off n c.toNat := by
  induction n generalizing off c with
  | zero => rfl
  | succ n ih =>
    calc (crc16From (crcByte c (Memory.read s.buf off)) (Memory.bytes s.buf (off + 1) n)).toNat
        = crcLoopNat s (off + 1) n (crcByte c (Memory.read s.buf off)).toNat := ih _ _
      _ = crcLoopNat s off (n + 1) c.toNat := by rw [toNat_crcByte]; rfl

/-- Settles O20: the register goes through the numbers of the loop. -/
theorem crc16RunsTheBitLoop : Obligations.Crc16RunsTheBitLoop := by
  refine fun s off n => ⟨fun hout => overRange_of_lt _ hout,
    fun hin => ⟨_, exec_crc16_eq_answered_iff.2 ⟨hin, rfl⟩, ?_⟩⟩
  rw [toNat_setWidth_half, toNat_crc16From_bytes]

/-- The register after a first part is the initial value for the second (R105 (1)). -/
theorem crc16From_bytes_add (iv : Half) (m : Memory) (off n k : Nat) :
    crc16From iv (Memory.bytes m off (n + k)) =
      crc16From (crc16From iv (Memory.bytes m off n)) (Memory.bytes m (off + n) k) := by
  rw [memory_bytes_add]
  exact List.foldl_append

/-- Settles O21: both sums run over the second part from the same register. -/
theorem crcSplitsAtAnyPoint : Obligations.CrcSplitsAtAnyPoint := by
  intro s off off' n m k v hn hoff' hin hfirst
  obtain ⟨-, rfl⟩ := exec_crc16_eq_answered_iff.1 hfirst
  refine ⟨_, exec_crc16_eq_answered_iff.2 ⟨?_, rfl⟩, exec_crc16_eq_answered_iff.2 ⟨hin, ?_⟩⟩
  · show off'.toNat + k.toNat ≤ s.len
    omega
  · rw [hn, crc16From_bytes_add, hoff', setWidth_setWidth_half]

/-- Shifts that push no 1 out of the register only shift. -/
theorem toNat_crcShifts_of_lt {k : Nat} {c : Half} (h : c.toNat * 2 ^ k < 65536) :
    (crcShifts k c).toNat = c.toNat * 2 ^ k := by
  induction k generalizing c with
  | zero => exact (Nat.mul_one _).symm
  | succ k ih =>
    have hpow : c.toNat * 2 ^ (k + 1) = c.toNat * 2 * 2 ^ k := by ring
    have hle : c.toNat * 2 ≤ c.toNat * 2 * 2 ^ k := Nat.le_mul_of_pos_right _ (Nat.two_pow_pos k)
    have hshift : (crcShift c).toNat = c.toNat * 2 := by
      rw [toNat_crcShift, crcShiftNat, if_neg (by omega), Nat.mod_eq_of_lt (by omega)]
    rw [crcShifts, ih (by rwa [hshift, ← hpow]), hshift, hpow]

/-- The high byte of the register cancels itself, and the low byte takes its place. -/
theorem crcByte_append_same (hi lo : Byte) : crcByte (hi ++ lo) hi = lo ++ 0#8 := by
  have hcancel : (hi ++ lo) ^^^ (hi ++ 0#8) = 0#8 ++ lo := by
    rw [BitVec.xor_append, BitVec.xor_self, BitVec.xor_zero]
  have hlow : (0#8 ++ lo).toNat = lo.toNat := by
    rw [BitVec.toNat_append]
    exact Nat.zero_or _
  have hfit : (0#8 ++ lo).toNat * 2 ^ 8 < 65536 := by
    have hlt := lo.isLt
    omega
  apply BitVec.eq_of_toNat_eq
  calc (crcByte (hi ++ lo) hi).toNat
      = (crcShifts 8 (0#8 ++ lo)).toNat := by rw [crcByte, hcancel]
    _ = lo.toNat * 2 ^ 8 := by rw [toNat_crcShifts_of_lt hfit, hlow]
    _ = (lo ++ 0#8).toNat := (toNat_append_zero lo).symm

/-- A register followed by its own two bytes is cleared (R105 (2)). -/
theorem crc16From_append_self (hi lo : Byte) : crc16From (hi ++ lo) [hi, lo] = 0 := by
  calc crcByte (crcByte (hi ++ lo) hi) lo
      = crcByte (lo ++ 0#8) lo := by rw [crcByte_append_same]
    _ = 0#8 ++ 0#8 := crcByte_append_same lo 0#8
    _ = 0 := rfl

/-- Settles O22: the two bytes are those of the register when they enter it. -/
theorem crcResidueIsZero : Obligations.CrcResidueIsZero := by
  intro s off n n' v hcrc hn' hin hbytes
  obtain ⟨-, rfl⟩ := exec_crc16_eq_answered_iff.1 hcrc
  refine exec_crc16_eq_answered_iff.2 ⟨hin, ?_⟩
  have hreg : crc16From s.csr.crcIv (Memory.bytes s.buf off.toNat n.toNat) =
      Memory.read2 s.buf (off.toNat + n.toNat) := by
    apply BitVec.eq_of_toNat_eq
    rw [memory_read2_toNat, ← toNat_setWidth_half]
    exact hbytes.symm
  have hclear : crc16From (Memory.read2 s.buf (off.toNat + n.toNat))
      (Memory.bytes s.buf (off.toNat + n.toNat) 2) = 0 := crc16From_append_self _ _
  rw [hn', crc16From_bytes_add, hreg, hclear]
  rfl

end Sys2Proof.Machine

/-! FLET16 (41_checksum.md R106, R107). -/

namespace Sys2Proof.Machine

/-- The two running sums after the bytes `off .. off+n` of BUF. -/
def fletcherSums (s : State) (off n : Nat) : Nat × Nat :=
  (Memory.bytes s.buf off n).foldl fletcherByte (0, 0)

theorem fletcherSums_succ (s : State) (off n : Nat) :
    fletcherSums s off (n + 1) = fletcherByte (fletcherSums s off n) (Memory.read s.buf (off + n)) := by
  rw [fletcherSums, memory_bytes_succ, List.foldl_append]
  rfl

theorem fletcher16_bytes (s : State) (off n : Nat) :
    fletcher16 (Memory.bytes s.buf off n) =
      BitVec.ofNat 16 ((fletcherSums s off n).2 * 256 + (fletcherSums s off n).1) := rfl

/-- With one byte more, every byte before the end counts once more. -/
theorem sum_weighted_succ (f : Nat → Nat) (n : Nat) :
    ∑ k ∈ Finset.range (n + 1), (n + 1 - k) * f k =
      ∑ k ∈ Finset.range n, (n - k) * f k + ∑ k ∈ Finset.range (n + 1), f k := by
  have hlast : ∑ k ∈ Finset.range (n + 1), (n - k) * f k = ∑ k ∈ Finset.range n, (n - k) * f k := by
    rw [Finset.sum_range_succ, Nat.sub_self, Nat.zero_mul, Nat.add_zero]
  rw [← hlast, ← Finset.sum_add_distrib]
  refine Finset.sum_congr rfl fun k hk => ?_
  have hle : k ≤ n := Nat.lt_succ_iff.1 (Finset.mem_range.1 hk)
  rw [Nat.succ_sub hle, Nat.succ_mul]

/-- Both running sums without the reductions on the way (R106). -/
theorem fletcherSums_eq (s : State) (off n : Nat) :
    fletcherSums s off n =
      ((∑ k ∈ Finset.range n, byteAt s (off + k)) % 255,
        (∑ k ∈ Finset.range n, (n - k) * byteAt s (off + k)) % 255) := by
  induction n with
  | zero => rfl
  | succ n ih =>
    have hfirst : ((fletcherSums s off n).1 + byteAt s (off + n)) % 255 =
        (∑ k ∈ Finset.range (n + 1), byteAt s (off + k)) % 255 := by
      rw [ih, Finset.sum_range_succ, Nat.mod_add_mod]
    calc fletcherSums s off (n + 1)
        = (((fletcherSums s off n).1 + byteAt s (off + n)) % 255,
            ((fletcherSums s off n).2 +
              ((fletcherSums s off n).1 + byteAt s (off + n)) % 255) % 255) :=
          fletcherSums_succ s off n
      _ = _ := by
          rw [hfirst, ih, sum_weighted_succ fun k => byteAt s (off + k), ← Nat.add_mod]

/-- Settles O23: the two bytes of the answer are the closed forms of the running sums. -/
theorem flet16HasTheClosedForm : Obligations.Flet16HasTheClosedForm := by
  refine fun s off n => ⟨fun hout => overRange_of_lt _ hout,
    fun hin => ⟨_, overRange_of_le _ hin, ?_⟩⟩
  rw [toNat_setWidth_half, fletcher16_bytes, BitVec.toNat_ofNat, fletcherSums_eq]
  exact Nat.mod_eq_of_lt (by omega)

end Sys2Proof.Machine

/-! CKSUM (41_checksum.md R110, R111). -/

namespace Sys2Proof.Machine

section
variable {s : State} (off : BitVec 24) (n : Word)

/-- With another algorithm than the sum, no count is refused. -/
theorem exec_cksum_of_ne_sum (h : s.csr.ckSel ≠ .sum) :
    exec (.cksum off n) s =
      overRange off n (fun bytes => (cksumOf s.csr.ckSel s.csr.crcIv bytes).getD 0) s :=
  if_neg fun hodd => h hodd.1

theorem exec_cksum_of_crc (h : s.csr.ckSel = .crc) :
    exec (.cksum off n) s = exec (.crc16 off n) s := by
  rw [exec_cksum_of_ne_sum off n (by rw [h]; decide), h]
  rfl

theorem exec_cksum_of_fletcher (h : s.csr.ckSel = .fletcher) :
    exec (.cksum off n) s = exec (.flet16 off n) s := by
  rw [exec_cksum_of_ne_sum off n (by rw [h]; decide), h]
  rfl

/-- The token FAIL stands for an odd count, which is refused before (R110, R111). -/
theorem exec_cksum_of_sum (h : s.csr.ckSel = .sum) :
    exec (.cksum off n) s = exec (.sum16 off n) s := by
  obtain heven | hodd := Nat.mod_two_eq_zero_or_one n.toNat
  · have hguard : ¬(s.csr.ckSel = .sum ∧ n.toNat % 2 = 1) := by omega
    calc exec (.cksum off n) s
        = overRange off n (fun bytes => (cksumOf s.csr.ckSel s.csr.crcIv bytes).getD 0) s :=
          if_neg hguard
      _ = overRange off n (sum16From 0) s := overRange_congr (by simp [h, cksumOf, heven])
      _ = exec (.sum16 off n) s := (exec_sum16_of_even heven).symm
  · calc exec (.cksum off n) s = raise .invarg s := if_pos ⟨h, hodd⟩
      _ = exec (.sum16 off n) s := (if_pos hodd).symm

end

/-- Settles O24: one algorithm after the other; each command answers for a range it takes. -/
theorem cksumIsTheSelectedCommand : Obligations.CksumIsTheSelectedCommand := by
  refine fun s off n => ⟨?same, fun hin heven => ?answers⟩
  case same =>
    split
    next h => exact exec_cksum_of_sum off n h
    next h => exact exec_cksum_of_crc off n h
    next h => exact exec_cksum_of_fletcher off n h
  case answers =>
    have hanswer (f : List Byte → Half) :
        ∃ v : Word, v.toNat < 65536 ∧ overRange off n f s = .next (answered v s) :=
      ⟨_, by rw [toNat_setWidth_half]; exact BitVec.isLt _, overRange_of_le f hin⟩
    cases h : s.csr.ckSel with
    | sum =>
      rw [exec_cksum_of_sum off n h, exec_sum16_of_even (heven h)]
      exact hanswer _
    | crc | fletcher =>
      rw [exec_cksum_of_ne_sum off n (by rw [h]; decide)]
      exact hanswer _

end Sys2Proof.Machine

/-! Fields of bytes and halfwords as numbers, the form in which the header layout of 42_ccsds_header.md
R120 and the secondary header's fields are stated. -/

namespace Sys2Proof.Machine

/-- A number put above another of `n` bits. -/
theorem toNat_append_eq_mul_add {m n : Nat} (x : BitVec m) (y : BitVec n) :
    (x ++ y).toNat = x.toNat * 2 ^ n + y.toNat := by
  rw [BitVec.toNat_append, ← Nat.shiftLeft_add_eq_or_of_lt y.isLt, Nat.shiftLeft_eq]

/-- The `k` bits of a number from bit `p` up. -/
theorem toNat_extractLsb'_eq_div_mod {n : Nat} (p k : Nat) (v : BitVec n) :
    (v.extractLsb' p k).toNat = v.toNat / 2 ^ p % 2 ^ k := by
  rw [BitVec.extractLsb'_toNat, Nat.shiftRight_eq_div_pow]

/-- `w` with `v` in place of its bits from bit `p` up: what every set command writes back (R132 to
R137, R145). -/
def replaceField {k n : Nat} (p : Nat) (v : BitVec k) (w : BitVec n) : BitVec n :=
  (w &&& ~~~((BitVec.allOnes k).setWidth n <<< p)) ||| (v.setWidth n <<< p)

section
variable {k n p : Nat}

theorem getLsbD_replaceField (v : BitVec k) (w : BitVec n) (h : p + k ≤ n) (i : Nat) :
    (replaceField p v w).getLsbD i =
      if p ≤ i ∧ i < p + k then v.getLsbD (i - p) else w.getLsbD i := by
  simp only [replaceField, BitVec.getLsbD_or, BitVec.getLsbD_and, BitVec.getLsbD_not,
    BitVec.getLsbD_shiftLeft, BitVec.getLsbD_setWidth, BitVec.getLsbD_allOnes]
  split
  case isTrue hin =>
    have hlt : i < n := by omega
    have hmask : i - p < k ∧ i - p < n := by omega
    simp [hlt, not_lt.2 hin.1, hmask]
  case isFalse hout =>
    have hv : i < n → ¬i < p → v.getLsbD (i - p) = false := fun _ _ => v.getLsbD_of_ge _ (by omega)
    have hw : n ≤ i → w.getLsbD i = false := w.getLsbD_of_ge i
    grind

/-- The bits above the field, the field, the bits below it. -/
theorem toNat_replaceField (v : BitVec k) (w : BitVec n) (h : p + k ≤ n) :
    (replaceField p v w).toNat =
      w.toNat / 2 ^ (p + k) * 2 ^ (p + k) + v.toNat * 2 ^ p + w.toNat % 2 ^ p := by
  have hsum : w.toNat / 2 ^ (p + k) * 2 ^ (p + k) + v.toNat * 2 ^ p + w.toNat % 2 ^ p =
      2 ^ p * (2 ^ k * (w.toNat / 2 ^ (p + k)) + v.toNat) + w.toNat % 2 ^ p := by
    rw [Nat.pow_add]
    ring
  have hlow : w.toNat % 2 ^ p < 2 ^ p := Nat.mod_lt _ (Nat.two_pow_pos p)
  rw [hsum]
  apply Nat.eq_of_testBit_eq
  intro i
  rw [BitVec.testBit_toNat, getLsbD_replaceField v w h, Nat.testBit_two_pow_mul_add _ hlow,
    Nat.testBit_two_pow_mul_add _ v.isLt, Nat.testBit_mod_two_pow, Nat.testBit_div_two_pow,
    BitVec.testBit_toNat, BitVec.testBit_toNat, BitVec.testBit_toNat]
  grind

/-- A field of the high byte of a halfword. -/
theorem replaceField_high (v : BitVec k) (hi lo : Byte) (h : p + k ≤ 8) :
    replaceField (p + 8) v (hi ++ lo : Half) = replaceField p v hi ++ lo := by
  apply BitVec.eq_of_getLsbD_eq
  intro i _
  rw [getLsbD_replaceField v _ (by omega), BitVec.getLsbD_append, BitVec.getLsbD_append,
    getLsbD_replaceField v _ h]
  grind

end

/-! ### The set commands' field updates -/

theorem setVersion_eq (v : BitVec 3) : setVersion v = replaceField 13 v := rfl

theorem setType_eq (v : BitVec 1) : setType v = replaceField 12 v := rfl

theorem setShf_eq (v : BitVec 1) : setShf v = replaceField 11 v := rfl

theorem setSeqFlags_eq (v : BitVec 2) : setSeqFlags v = replaceField 14 v := rfl

theorem setApid_eq (v : Apid) : setApid v = replaceField 0 v := by
  funext w
  rw [replaceField, BitVec.shiftLeft_zero, BitVec.shiftLeft_zero]
  rfl

theorem setSeqCount_eq (v : SeqCount) : setSeqCount v = replaceField 0 v := by
  funext w
  rw [replaceField, BitVec.shiftLeft_zero, BitVec.shiftLeft_zero]
  rfl

theorem setCkiBit_eq (k : Nat) (v : BitVec 1) : setCkiBit k v = replaceField k v := rfl

theorem byteAt_lt (s : State) (a : Nat) : byteAt s a < 256 := (Memory.read s.buf a).isLt

/-- A read that leaves the packet. -/
theorem finishRead_of_bounds {r : Except ErrCode Word} {s : State} (h : r = .error .bounds) :
    finishRead r s = .next (failed 2 s) := by
  rw [h]
  exact finishRead_error .bounds s

/-- A write that leaves the packet. -/
theorem finishWrite_of_bounds {r : Except ErrCode State} {s : State} (h : r = .error .bounds) :
    finishWrite r s = .next (failed 2 s) := by
  rw [h]
  exact finishWrite_error .bounds s

end Sys2Proof.Machine

/-! The get commands (42_ccsds_header.md R124 to R131, R140, R141, R144). -/

namespace Sys2Proof.Machine

section
variable {s : State} {a : Nat} {f : Half → Word}

theorem getHalf_of_le {n : Nat} (hfit : a + 2 ≤ s.len)
    (hval : f (Memory.read2 s.buf a) = BitVec.ofNat 32 n) :
    getHalf a f s = .next (answered (BitVec.ofNat 32 n) s) := by
  rw [getHalf, memRead2_ok hfit, ← hval]
  exact finishRead_ok _ s

theorem getHalf_of_lt (hout : s.len < a + 2) : getHalf a f s = .next (failed 2 s) := by
  rw [getHalf, memRead2_error hout]
  exact finishRead_of_bounds rfl

/-- A field of `k` bits from bit `p` of the halfword at offset `a` is answered as a number. -/
theorem getHalf_field (p k : Nat) {n : Nat} (hfit : a + 2 ≤ s.len)
    (hn : (Memory.read2 s.buf a).toNat / 2 ^ p % 2 ^ k = n) :
    getHalf a (fun w => (w.extractLsb' p k).setWidth 32) s =
      .next (answered (BitVec.ofNat 32 n) s) := by
  apply getHalf_of_le hfit
  rw [← BitVec.ofNat_toNat, toNat_extractLsb'_eq_div_mod, hn]

end

/-- Settles O25: each field of R120 as a part of the number in bytes 0 and 1. -/
theorem getFieldsOfFirstHalfword : Obligations.GetFieldsOfFirstHalfword := by
  refine fun s => ⟨fun hfit => ?inside, fun hout i hi => ?outside⟩
  case inside =>
    have hb0 := byteAt_lt s 0
    have hb1 := byteAt_lt s 1
    have hw : (Memory.read2 s.buf 0).toNat = byteAt s 0 * 256 + byteAt s 1 :=
      memory_read2_toNat s.buf 0
    exact ⟨getHalf_field 13 3 hfit (by omega), getHalf_field 12 1 hfit (by omega),
      getHalf_field 11 1 hfit (by omega), getHalf_field 0 11 hfit (by omega)⟩
  case outside =>
    simp only [List.mem_cons, List.not_mem_nil, or_false] at hi
    obtain rfl | rfl | rfl | rfl := hi
    all_goals exact getHalf_of_lt hout

/-- Settles O26: the same for bytes 2 and 3, and bytes 4 and 5 as one number. -/
theorem getFieldsOfLaterHalfwords : Obligations.GetFieldsOfLaterHalfwords := by
  refine fun s => ⟨fun hfit => ?inside4, fun hout i hi => ?outside4, fun hfit => ?inside6,
    fun hout i hi => ?outside6⟩
  case inside4 =>
    have hb2 := byteAt_lt s 2
    have hb3 := byteAt_lt s 3
    have hw : (Memory.read2 s.buf 2).toNat = byteAt s 2 * 256 + byteAt s 3 :=
      memory_read2_toNat s.buf 2
    exact ⟨getHalf_field 14 2 hfit (by omega), getHalf_field 0 14 hfit (by omega)⟩
  case inside6 =>
    have hword : (Memory.read2 s.buf 4).setWidth 32 =
        BitVec.ofNat 32 (byteAt s 4 * 256 + byteAt s 5) := by
      rw [← BitVec.ofNat_toNat, memory_read2_toNat]
      rfl
    exact ⟨getHalf_of_le hfit hword,
      getHalf_of_le hfit (by rw [hword, BitVec.ofNat_add _ 7]; rfl)⟩
  case outside4 | outside6 =>
    simp only [List.mem_cons, List.not_mem_nil, or_false] at hi
    obtain rfl | rfl := hi
    all_goals exact getHalf_of_lt hout

/-- Four bytes of BUF as a number (20_memory.md R61). -/
theorem memory_read4_toNat (m : Memory) (a : Nat) :
    (Memory.read4 m a).toNat =
      (((Memory.read m a).toNat * 256 + (Memory.read m (a + 1)).toNat) * 256 +
        (Memory.read m (a + 2)).toNat) * 256 + (Memory.read m (a + 3)).toNat := by
  rw [Memory.read4, toNat_append_eq_mul_add, toNat_append_eq_mul_add, toNat_append_eq_mul_add]
  rfl

/-- The indicator bit as a number (R144). -/
theorem toNat_ofBool_ckiBit (k : Nat) (x : Byte) :
    (BitVec.ofBool (ckiBit k x)).toNat = x.toNat / 2 ^ k % 2 := by
  rw [BitVec.toNat_ofBool, ckiBit, ← BitVec.testBit_toNat, Nat.toNat_testBit]

section
variable {s : State} {a : Nat} {f : Byte → Word}

theorem getByte_of_lt {n : Nat} (hin : a < s.len)
    (hval : f (Memory.read s.buf a) = BitVec.ofNat 32 n) :
    finishRead ((memRead1 s a).map f) s = .next (answered (BitVec.ofNat 32 n) s) := by
  rw [memRead1_ok hin, ← hval]
  exact finishRead_ok _ s

theorem getByte_of_le (hout : s.len ≤ a) :
    finishRead ((memRead1 s a).map f) s = .next (failed 2 s) := by
  rw [memRead1_error (Nat.lt_succ_of_le hout)]
  exact finishRead_of_bounds rfl

end

/-- Settles O27: a read at the build's offset is in the packet or it is not. -/
theorem getSecondaryHeaderFields : Obligations.GetSecondaryHeaderFields := by
  refine fun s => ⟨fun hin => ?coarse, fun hout => finishRead_of_bounds (memRead4_error hout),
    fun hin => getByte_of_lt hin ?fine, getByte_of_le,
    fun hin => getByte_of_lt hin ?cki, getByte_of_le⟩
  case coarse =>
    calc exec .gcoarse s = finishRead (memRead4 s s.params.shCoarseOff) s := rfl
      _ = .next (answered (BitVec.ofNat 32 (Memory.read4 s.buf s.params.shCoarseOff).toNat) s) := by
        rw [memRead4_ok hin, finishRead_ok, BitVec.ofNat_toNat, BitVec.setWidth_eq]
      _ = _ := by
        rw [memory_read4_toNat]
        rfl
  case fine => exact (BitVec.ofNat_toNat 32 _).symm
  case cki =>
    rw [← BitVec.ofNat_toNat, toNat_ofBool_ckiBit]
    rfl

end Sys2Proof.Machine

/-! The set commands (42_ccsds_header.md R132 to R138, R142, R143, R145): what a store into the packet
leaves, then the fields each command replaces. -/

namespace Sys2Proof.Machine

/-- `t` is `s` after a successful store of the byte `v` at offset `a` (20_memory.md R62). -/
structure StoresByte (a : Nat) (v : Byte) (s t : State) : Prop where
  frame : OnlyBufAndAnswer 0 s t
  read : ∀ b, Memory.read t.buf b = if b = a then v else Memory.read s.buf b

/-- `t` is `s` after a successful store of the halfword `v` at offset `a` (R62). -/
structure StoresHalf (a : Nat) (v : Half) (s t : State) : Prop where
  frame : OnlyBufAndAnswer 0 s t
  high : Memory.read t.buf a = v.extractLsb' 8 8
  low : Memory.read t.buf (a + 1) = v.extractLsb' 0 8
  others : ∀ b, b ≠ a → b ≠ a + 1 → Memory.read t.buf b = Memory.read s.buf b

section
variable {s t : State} {a : Nat}

theorem StoresByte.same {v : Byte} (h : StoresByte a v s t) : Memory.read t.buf a = v := by
  rw [h.read, if_pos rfl]

theorem StoresByte.others {v : Byte} (h : StoresByte a v s t) :
    ∀ b, b ≠ a → Memory.read t.buf b = Memory.read s.buf b :=
  fun b hb => by rw [h.read, if_neg hb]

theorem StoresHalf.byteAt_high {v : Half} (h : StoresHalf a v s t) :
    byteAt t a = v.toNat / 256 := by
  have hv := v.isLt
  rw [byteAt, h.high, toNat_extractLsb'_eq_div_mod]
  omega

theorem StoresHalf.byteAt_low {v : Half} (h : StoresHalf a v s t) :
    byteAt t (a + 1) = v.toNat % 256 := by
  rw [byteAt, h.low, toNat_extractLsb'_eq_div_mod]
  omega

/-- A halfword stored over one with the same low byte changes the high byte only. -/
theorem StoresHalf.storesByte {hi : Byte}
    (h : StoresHalf a (hi ++ Memory.read s.buf (a + 1)) s t) : StoresByte a hi s t := by
  have hhigh : (hi ++ Memory.read s.buf (a + 1)).extractLsb' 8 8 = hi :=
    BitVec.extractLsb'_append_eq_left
  have hlow : (hi ++ Memory.read s.buf (a + 1)).extractLsb' 0 8 = Memory.read s.buf (a + 1) :=
    BitVec.extractLsb'_append_eq_right
  refine ⟨h.frame, fun b => ?_⟩
  split
  case isTrue hb => rw [hb, h.high, hhigh]
  case isFalse hb =>
    obtain rfl | hb' := eq_or_ne b (a + 1)
    · rw [h.low, hlow]
    · exact h.others b hb hb'

theorem finishWrite_memWrite1 (v : Byte) (hfit : a + 1 ≤ s.len) :
    ∃ t, finishWrite (memWrite1 s a v) s = .next t ∧ StoresByte a v s t := by
  rw [memWrite1_ok v hfit, finishWrite_ok]
  exact ⟨_, rfl, rfl, memory_read_write s.buf a v⟩

theorem finishWrite_memWrite2 (v : Half) (hfit : a + 2 ≤ s.len) :
    ∃ t, finishWrite (memWrite2 s a v) s = .next t ∧ StoresHalf a v s t := by
  rw [memWrite2_ok v hfit, finishWrite_ok]
  refine ⟨_, rfl, rfl, ?high, ?low, fun b hb hb' => ?others⟩
  all_goals rw [answered_buf, memory_read_write2]
  case high => rw [if_pos rfl]
  case low => rw [if_neg (Nat.succ_ne_self a), if_pos rfl]
  case others => rw [if_neg hb, if_neg hb']

theorem finishWrite_memUpdate1 (f : Byte → Byte) (hfit : a + 1 ≤ s.len) :
    ∃ t, finishWrite (memUpdate1 s a f) s = .next t ∧
      StoresByte a (f (Memory.read s.buf a)) s t := by
  rw [memUpdate1_ok f hfit, ← memWrite1_ok _ hfit]
  exact finishWrite_memWrite1 _ hfit

theorem finishWrite_memUpdate2 (f : Half → Half) (hfit : a + 2 ≤ s.len) :
    ∃ t, finishWrite (memUpdate2 s a f) s = .next t ∧
      StoresHalf a (f (Memory.read2 s.buf a)) s t := by
  rw [memUpdate2_ok f hfit, ← memWrite2_ok _ hfit]
  exact finishWrite_memWrite2 _ hfit

/-- A field of the high byte of a halfword of BUF is replaced and nothing else. -/
theorem update_highField {k : Nat} (p : Nat) (v : BitVec k) (hp : p + k ≤ 8) {f : Half → Half}
    (hf : f = replaceField (p + 8) v) (hfit : a + 2 ≤ s.len) :
    ∃ t, finishWrite (memUpdate2 s a f) s = .next t ∧ OnlyBufAndAnswer 0 s t ∧
      byteAt t a =
        byteAt s a / 2 ^ (p + k) * 2 ^ (p + k) + v.toNat * 2 ^ p + byteAt s a % 2 ^ p ∧
      ∀ b, b ≠ a → Memory.read t.buf b = Memory.read s.buf b := by
  obtain ⟨t, hexec, hhalf⟩ := finishWrite_memUpdate2 f hfit
  rw [hf, Memory.read2, replaceField_high v _ _ hp] at hhalf
  have hbyte := hhalf.storesByte
  refine ⟨t, hexec, hbyte.frame, ?_, hbyte.others⟩
  rw [byteAt, hbyte.same, toNat_replaceField v _ hp]
  rfl

/-- The same for a field that reaches the top of the byte: no bits stand above it. -/
theorem update_topField {k : Nat} (p : Nat) (v : BitVec k) (hp : p + k = 8) {f : Half → Half}
    (hf : f = replaceField (p + 8) v) (hfit : a + 2 ≤ s.len) :
    ∃ t, finishWrite (memUpdate2 s a f) s = .next t ∧ OnlyBufAndAnswer 0 s t ∧
      byteAt t a = v.toNat * 2 ^ p + byteAt s a % 2 ^ p ∧
      ∀ b, b ≠ a → Memory.read t.buf b = Memory.read s.buf b := by
  obtain ⟨t, hexec, hframe, hfield, hothers⟩ := update_highField p v hp.le hf hfit
  have htop : byteAt s a / 2 ^ 8 = 0 := Nat.div_eq_of_lt (byteAt_lt s a)
  rw [hp, htop, Nat.zero_mul, Nat.zero_add] at hfield
  exact ⟨t, hexec, hframe, hfield, hothers⟩

/-- A field of the low byte and `k` bits of the high byte of a halfword of BUF is replaced and nothing
else. -/
theorem update_lowField {k : Nat} (v : BitVec (8 + k)) (hk : k ≤ 8) {f : Half → Half}
    (hf : f = replaceField 0 v) (hfit : a + 2 ≤ s.len) :
    ∃ t, finishWrite (memUpdate2 s a f) s = .next t ∧ OnlyBufAndAnswer 0 s t ∧
      byteAt t a = byteAt s a / 2 ^ k * 2 ^ k + v.toNat / 256 ∧
      byteAt t (a + 1) = v.toNat % 256 ∧
      ∀ b, b ≠ a → b ≠ a + 1 → Memory.read t.buf b = Memory.read s.buf b := by
  obtain ⟨t, hexec, hhalf⟩ := finishWrite_memUpdate2 f hfit
  have hdiv : (byteAt s a * 256 + byteAt s (a + 1)) / 2 ^ (8 + k) = byteAt s a / 2 ^ k := by
    have hlow := byteAt_lt s (a + 1)
    rw [Nat.pow_add, ← Nat.div_div_eq_div_mul]
    exact congrArg (· / 2 ^ k) (by omega)
  have hval : (f (Memory.read2 s.buf a)).toNat =
      256 * (byteAt s a / 2 ^ k * 2 ^ k) + v.toNat := by
    rw [hf, toNat_replaceField v _ (by omega), memory_read2_toNat, Nat.zero_add, ← byteAt, ← byteAt,
      hdiv, Nat.pow_add, Nat.pow_zero, Nat.mod_one, Nat.mul_one, Nat.add_zero, Nat.mul_left_comm]
  refine ⟨t, hexec, hhalf.frame, ?_, ?_, hhalf.others⟩
  · rw [hhalf.byteAt_high, hval, Nat.mul_add_div (by decide)]
  · rw [hhalf.byteAt_low, hval, Nat.mul_add_mod]

end

/-- Settles O28, one field after the other. -/
theorem setFieldsOfFirstHalfword : Obligations.SetFieldsOfFirstHalfword := by
  refine fun s => ⟨fun hfit => ?inside, fun hout => ?outside⟩
  case inside =>
    exact ⟨fun v => update_topField 5 v rfl (setVersion_eq v) hfit,
      fun v => update_highField 4 v (by decide) (setType_eq v) hfit,
      fun v => update_highField 3 v (by decide) (setShf_eq v) hfit,
      fun v => update_lowField (k := 3) v (by decide) (setApid_eq v) hfit⟩
  case outside =>
    have hrefused (f : Half → Half) : finishWrite (memUpdate2 s 0 f) s = .next (failed 2 s) :=
      finishWrite_of_bounds (memUpdate2_error f hout)
    exact ⟨fun v => hrefused _, fun v => hrefused _, fun v => hrefused _, fun v => hrefused _⟩

/-- Settles O29: the fields of bytes 2 and 3 in place, the length field as a whole halfword. -/
theorem setFieldsOfLaterHalfwords : Obligations.SetFieldsOfLaterHalfwords := by
  refine fun s => ⟨fun hfit => ⟨fun v => ?seqf, fun v => ?seq⟩, fun hout => ⟨fun v => ?seqfOut,
    fun v => ?seqOut⟩, fun hfit v => ?lenf, fun hout v => ?lenfOut⟩
  case seqf => exact update_topField 6 v rfl (setSeqFlags_eq v) hfit
  case seq => exact update_lowField (k := 6) v (by decide) (setSeqCount_eq v) hfit
  case seqfOut | seqOut => exact finishWrite_of_bounds (memUpdate2_error _ hout)
  case lenf =>
    obtain ⟨t, hexec, hhalf⟩ := finishWrite_memWrite2 v hfit
    exact ⟨t, hexec, hhalf.frame, hhalf.byteAt_high, hhalf.byteAt_low, hhalf.others⟩
  case lenfOut => exact finishWrite_of_bounds (memWrite2_error v hout)

/-- Byte `k` of a stored word, the most significant first (20_memory.md R62). -/
theorem memory_read_write4_inside (m : Memory) (a : Nat) (v : Word) {k : Nat} (h : k < 4) :
    Memory.read (Memory.write4 m a v) (a + k) = v.extractLsb' (8 * (3 - k)) 8 := by
  rw [memory_read_write4]
  interval_cases k <;> simp

theorem memory_read_write4_outside (m : Memory) (a : Nat) (v : Word) {b : Nat}
    (h : b < a ∨ a + 4 ≤ b) : Memory.read (Memory.write4 m a v) b = Memory.read m b := by
  rw [memory_read_write4, if_neg (by omega), if_neg (by omega), if_neg (by omega),
    if_neg (by omega)]

/-- The indicator bit takes the operand and the others stay (R145). -/
theorem getLsbD_setCkiBit {k : Nat} (hk : k ≤ 7) (v : BitVec 1) (x : Byte) (j : Nat) :
    (setCkiBit k v x).getLsbD j = if j = k then v == 1 else x.getLsbD j := by
  have hbit : ∀ v : BitVec 1, v.getLsbD 0 = (v == 1) := by decide
  rw [setCkiBit_eq, getLsbD_replaceField v x (by omega)]
  obtain rfl | hne := eq_or_ne j k
  · rw [if_pos (by omega), if_pos rfl, Nat.sub_self, hbit]
  · rw [if_neg (by omega), if_neg hne]

/-- Settles O30: the word, the byte and the bit at the build's offsets. -/
theorem setSecondaryHeaderFields : Obligations.SetSecondaryHeaderFields := by
  refine fun s => ⟨fun v hfit => ?coarse, fun v hout => ?coarseOut, fun v hin => ?fine,
    fun v hout => ?fineOut, fun v hin hbit => ?cki, fun v hout => ?ckiOut⟩
  case coarse =>
    refine ⟨answered 0 { s with buf := Memory.write4 s.buf s.params.shCoarseOff v }, ?_, rfl,
      fun k hk => ?_, fun a ha => memory_read_write4_outside _ _ v ha⟩
    · calc exec (.scoarse v) s = finishWrite (memWrite4 s s.params.shCoarseOff v) s := rfl
        _ = _ := by rw [memWrite4_ok v hfit, finishWrite_ok]
    · rw [byteAt, answered_buf, memory_read_write4_inside _ _ v hk, toNat_extractLsb'_eq_div_mod,
        Nat.pow_mul]
      rfl
  case fine =>
    obtain ⟨t, hexec, hbyte⟩ := finishWrite_memWrite1 v hin
    exact ⟨t, hexec, hbyte.frame, hbyte.read⟩
  case cki =>
    obtain ⟨t, hexec, hbyte⟩ := finishWrite_memUpdate1 (setCkiBit s.params.shCkiBit v) hin
    refine ⟨t, hexec, hbyte.frame, fun j _ => ?_, hbyte.others⟩
    rw [hbyte.same, getLsbD_setCkiBit hbit]
  case coarseOut => exact finishWrite_of_bounds (memWrite4_error v hout)
  case fineOut => exact finishWrite_of_bounds (memWrite1_error v (Nat.lt_succ_of_le hout))
  case ckiOut => exact finishWrite_of_bounds (memUpdate1_error _ (Nat.lt_succ_of_le hout))

end Sys2Proof.Machine

/-! SHDR (42_ccsds_header.md R139) and its round trip through the get commands. -/

namespace Sys2Proof.Machine

section
variable (type shf : BitVec 1) (apid : Apid) (seqf : BitVec 2) (seq : SeqCount)

/-- The packed header as a number (R86, R120). -/
theorem toNat_shdrHeader : (shdrHeader type shf apid seqf seq).toNat =
    type.toNat * 2 ^ 28 + shf.toNat * 2 ^ 27 + apid.toNat * 2 ^ 16 + seqf.toNat * 2 ^ 14 +
      seq.toNat := by
  rw [shdrHeader, shdrOperand, toNat_append_eq_mul_add, toNat_append_eq_mul_add,
    toNat_append_eq_mul_add, toNat_append_eq_mul_add, toNat_append_eq_mul_add, BitVec.toNat_ofNat]
  omega

/-- The state SHDR leaves on a packet that can hold a length field (R139). -/
def headerStored (s : State) : State :=
  answered (BitVec.ofNat 32 (s.len - 7))
    { s with buf := Memory.write2 (Memory.write4 s.buf 0 (shdrHeader type shf apid seqf seq)) 4
              (BitVec.ofNat 16 (s.len - 7)) }

variable {s : State}

theorem exec_shdr_of_le (h : 7 ≤ s.len) :
    exec (.shdr type shf apid seqf seq) s = .next (headerStored type shf apid seqf seq s) := by
  rw [headerStored, ← respond_eq]
  exact (if_neg (by omega)).trans (if_neg (by omega))

/-- The first four bytes are those of the packed header, the most significant first. -/
theorem byteAt_headerStored_of_lt {k : Nat} (hk : k < 4) :
    byteAt (headerStored type shf apid seqf seq s) k =
      (shdrHeader type shf apid seqf seq).toNat / 2 ^ (8 * (3 - k)) % 2 ^ 8 := by
  have hword := memory_read_write4_inside s.buf 0 (shdrHeader type shf apid seqf seq) hk
  rw [Nat.zero_add] at hword
  rw [byteAt, headerStored, answered_buf, memory_read_write2, if_neg (by omega), if_neg (by omega),
    hword, toNat_extractLsb'_eq_div_mod]

/-- The length field of R139 fits its 16 bits. -/
theorem toNat_lengthField (h : s.len ≤ 65542) : (BitVec.ofNat 16 (s.len - 7)).toNat = s.len - 7 := by
  rw [BitVec.toNat_ofNat, Nat.mod_eq_of_lt (by omega)]

theorem byteAt_headerStored_four (h : s.len ≤ 65542) :
    byteAt (headerStored type shf apid seqf seq s) 4 = (s.len - 7) / 256 := by
  rw [byteAt, headerStored, answered_buf, memory_read_write2, if_pos rfl,
    toNat_extractLsb'_eq_div_mod, toNat_lengthField h]
  omega

theorem byteAt_headerStored_five (h : s.len ≤ 65542) :
    byteAt (headerStored type shf apid seqf seq s) 5 = (s.len - 7) % 256 := by
  rw [byteAt, headerStored, answered_buf, memory_read_write2, if_neg (by decide), if_pos rfl,
    toNat_extractLsb'_eq_div_mod, toNat_lengthField h]
  omega

theorem read_headerStored_of_le {a : Nat} (ha : 6 ≤ a) :
    Memory.read (headerStored type shf apid seqf seq s).buf a = Memory.read s.buf a := by
  rw [headerStored, answered_buf, memory_read_write2, if_neg (by omega), if_neg (by omega),
    memory_read_write4_outside _ _ _ (by omega)]

end

/-- Settles O31: the two tests on LEN, then the bytes of the packed header and of the length field. -/
theorem shdrWritesTheHeader : Obligations.ShdrWritesTheHeader := by
  refine fun s type shf apid seqf seq => ⟨fun hlen => ?bounds, fun hlen => ?invarg,
    fun hmin hmax => ⟨headerStored type shf apid seqf seq s, exec_shdr_of_le _ _ _ _ _ hmin, rfl, ?_⟩⟩
  case bounds =>
    calc exec (.shdr type shf apid seqf seq) s = raise .bounds s := if_pos hlen
      _ = .next (failed 2 s) := raise_eq .bounds s
  case invarg =>
    calc exec (.shdr type shf apid seqf seq) s = raise .invarg s :=
          (if_neg (by omega)).trans (if_pos (by omega))
      _ = .next (failed 3 s) := raise_eq .invarg s
  have hbyte {k : Nat} (hk : k < 4) := byteAt_headerStored_of_lt type shf apid seqf seq (s := s) hk
  have hword := toNat_shdrHeader type shf apid seqf seq
  have htype := type.isLt
  have hshf := shf.isLt
  have hapid := apid.isLt
  have hseqf := seqf.isLt
  have hseq := seq.isLt
  refine ⟨(hbyte (k := 0) (by decide)).trans ?_, (hbyte (k := 1) (by decide)).trans ?_,
    (hbyte (k := 2) (by decide)).trans ?_, (hbyte (k := 3) (by decide)).trans ?_,
    byteAt_headerStored_four type shf apid seqf seq hmax,
    byteAt_headerStored_five type shf apid seqf seq hmax,
    fun a ha => read_headerStored_of_le type shf apid seqf seq ha⟩
  all_goals omega

/-- The fields of R120 in header bytes 0 and 1 as SHDR writes them. -/
theorem fields_of_first_bytes {b0 b1 : Nat} (type shf : BitVec 1) (apid : Apid)
    (h0 : b0 = type.toNat * 16 + shf.toNat * 8 + apid.toNat / 256) (h1 : b1 = apid.toNat % 256) :
    b0 / 32 = 0 ∧ b0 / 16 % 2 = type.toNat ∧ b0 / 8 % 2 = shf.toNat ∧
      b0 % 8 * 256 + b1 = apid.toNat := by
  have htype := type.isLt
  have hshf := shf.isLt
  have hapid := apid.isLt
  omega

/-- The fields of R120 in header bytes 2 and 3 as SHDR writes them. -/
theorem fields_of_second_bytes {b2 b3 : Nat} (seqf : BitVec 2) (seq : SeqCount)
    (h2 : b2 = seqf.toNat * 64 + seq.toNat / 256) (h3 : b3 = seq.toNat % 256) :
    b2 / 64 = seqf.toNat ∧ b2 % 64 * 256 + b3 = seq.toNat := by
  have hseq := seq.isLt
  omega

/-- Settles O32: the get commands answer parts of the bytes SHDR is known to leave. -/
theorem shdrFieldsAreReadBack : Obligations.ShdrFieldsAreReadBack := by
  intro s t type shf apid seqf seq hmin hmax hexec
  obtain ⟨-, -, hwrites⟩ := shdrWritesTheHeader s type shf apid seqf seq
  obtain ⟨t', hexec', hframe, h0, h1, h2, h3, h4, h5, -⟩ := hwrites hmin hmax
  obtain rfl : t = t' := Host.Outcome.next.inj (hexec.symm.trans hexec')
  have hlen : t.len = s.len := (congrArg State.len hframe :)
  obtain ⟨hversion, htype, hshf, hapid⟩ := fields_of_first_bytes type shf apid h0 h1
  obtain ⟨hseqf, hseq⟩ := fields_of_second_bytes seqf seq h2 h3
  have htotal : byteAt t 4 * 256 + byteAt t 5 + 7 = s.len := by
    rw [h4, h5, Nat.div_add_mod', Nat.sub_add_cancel hmin]
  obtain ⟨hfirst, -⟩ := getFieldsOfFirstHalfword t
  obtain ⟨hsecond, -, hthird, -⟩ := getFieldsOfLaterHalfwords t
  obtain ⟨hgver, hgtype, hgshf, hgapid⟩ := hfirst (hlen ▸ by omega)
  obtain ⟨hgseqf, hgseq⟩ := hsecond (hlen ▸ by omega)
  obtain ⟨-, hgplen⟩ := hthird (hlen ▸ by omega)
  rw [hversion] at hgver
  rw [htype, BitVec.ofNat_toNat] at hgtype
  rw [hshf, BitVec.ofNat_toNat] at hgshf
  rw [hapid, BitVec.ofNat_toNat] at hgapid
  rw [hseqf, BitVec.ofNat_toNat] at hgseqf
  rw [hseq, BitVec.ofNat_toNat] at hgseq
  rw [htotal] at hgplen
  exact ⟨hgver, hgtype, hgshf, hgapid, hgseqf, hgseq, hgplen⟩

end Sys2Proof.Machine

/-! FINIT (43_framer.md R162). -/

namespace Sys2Proof.Machine

section
variable {s : State}

/-- FINIT where its construction check passes. -/
theorem exec_finit_of_some {e : Nat} (h : finitHeader s.params.bufsz s.csr = some e) :
    exec .finit s =
      .next (answered 0 { s with fr := framerRestart { s.fr with cfg := finitLatch s.csr e } }) := by
  rw [← respond_eq]
  simp only [exec, execFinit, h]

/-- FINIT where its construction check fails. -/
theorem exec_finit_of_none (h : finitHeader s.params.bufsz s.csr = none) :
    exec .finit s = .next (failed 4 { s with fr := framerOff s.fr }) := by
  refine Eq.trans ?_ (raise_eq .config _)
  simp only [exec, execFinit, h]

end

section
variable {bufsz : Nat} {c : Csr}

/-! ### The construction check, variant by variant -/

theorem finitHeader_noFraming (hmode : c.fMode = .noFraming) : finitHeader bufsz c = none := by
  simp [finitHeader, hmode]

theorem finitHeader_fixed (hmode : c.fMode = .fixed) :
    finitHeader bufsz c = if 1 ≤ c.pktSize.toNat then some 0 else none := by
  simp [finitHeader, hmode]

theorem finitHeader_ccsds (hmode : c.fMode = .ccsds) :
    finitHeader bufsz c = if 7 ≤ c.maxLen.toNat then some 6 else none := by
  simp [finitHeader, hmode]

theorem finitHeader_generic (hmode : c.fMode = .generic) :
    finitHeader bufsz c = if c.fcfgSet = 0b1111 ∧ c.lfOff.toNat + c.lfLen.toNat ≤ bufsz then
      some (c.lfOff.toNat + c.lfLen.toNat) else none := by
  simp [finitHeader, hmode]

/-! ### What the framer latches and how it starts -/

theorem finitLatch_generic (e : Nat) (hmode : c.fMode = .generic) :
    finitLatch c e = ⟨.generic, c.pktSize, c.maxLen, c.lfOff, c.lfLen, c.lfOrd, c.lfAdj, c.strip, e⟩ := by
  rw [finitLatch, if_pos hmode, hmode]

theorem finitLatch_other (e : Nat) (hmode : c.fMode ≠ .generic) :
    finitLatch c e = ⟨c.fMode, c.pktSize, c.maxLen, c.lfOff, c.lfLen, c.lfOrd, c.lfAdj, 0, e⟩ := by
  rw [finitLatch, if_neg hmode]

theorem framerRestart_eq_of_fixed {f : Framer} (h : f.cfg.mode = .fixed) :
    framerRestart f = { f with fst := .body, fpos := 0, flen := 0, ftot := f.cfg.pktSize.toNat } :=
  if_pos h

theorem framerRestart_eq_of_ne_fixed {f : Framer} (h : f.cfg.mode ≠ .fixed) :
    framerRestart f = { f with fst := .header, fpos := 0, flen := 0, ftot := 0 } :=
  if_neg h

end

/-- Settles O33: one construction check per variant, then the restart of the framer under the latched
configuration. -/
theorem finitConstructsOrRefuses : Obligations.FinitConstructsOrRefuses := by
  refine fun s => ⟨fun hmode hsize => ?fixed, fun hmode hmax => ?ccsds, fun hmode hset hfit => ?generic,
    fun hfail => exec_finit_of_none ?refused⟩
  case fixed =>
    have hcheck := (finitHeader_fixed (bufsz := s.params.bufsz) hmode).trans (if_pos hsize)
    rw [exec_finit_of_some hcheck, framerRestart_eq_of_fixed hmode,
      finitLatch_other 0 (by simp [hmode]), hmode]
  case ccsds =>
    have hcheck := (finitHeader_ccsds (bufsz := s.params.bufsz) hmode).trans (if_pos hmax)
    have hne : s.csr.fMode ≠ .fixed := by simp [hmode]
    rw [exec_finit_of_some hcheck, framerRestart_eq_of_ne_fixed hne,
      finitLatch_other 6 (by simp [hmode]), hmode]
  case generic =>
    have hcheck := (finitHeader_generic hmode).trans (if_pos ⟨hset, hfit⟩)
    have hne : s.csr.fMode ≠ .fixed := by simp [hmode]
    rw [exec_finit_of_some hcheck, framerRestart_eq_of_ne_fixed hne, finitLatch_generic _ hmode]
  case refused =>
    obtain hmode | ⟨hmode, hsize⟩ | ⟨hmode, hmax⟩ | ⟨hmode, hgiven⟩ := hfail
    · exact finitHeader_noFraming hmode
    · rw [finitHeader_fixed hmode, if_neg (by simp [hsize])]
    · rw [finitHeader_ccsds hmode, if_neg (by omega)]
    · refine (finitHeader_generic hmode).trans (if_neg fun ⟨hset, hfit⟩ => ?_)
      obtain hunset | hlong := hgiven
      · exact hunset hset
      · omega

end Sys2Proof.Machine

/-! FPUSH (43_framer.md R163). -/

namespace Sys2Proof.Machine

section
variable {f : Framer}

/-! ### The test of a completed header -/

theorem framerHeader_of_incomplete (h : ¬(f.fst = .header ∧ f.fpos = f.cfg.e)) :
    framerHeader f = .ok f := if_neg h

theorem framerHeader_of_short (hst : f.fst = .header) (hend : f.fpos = f.cfg.e)
    (hshort : framerResolve f < (max f.cfg.e f.cfg.strip.toNat : Nat)) :
    framerHeader f = .error .badlen := by
  rw [framerHeader, if_pos ⟨hst, hend⟩, if_pos hshort]

variable {total : Nat} (hst : f.fst = .header) (hend : f.fpos = f.cfg.e)
  (htotal : framerResolve f = (total : Int)) (hmin : max f.cfg.e f.cfg.strip.toNat ≤ total)
include hst hend htotal hmin

theorem framerHeader_of_long (hlong : f.cfg.maxLen.toNat < total) :
    framerHeader f = .error .toolong := by
  rw [framerHeader, if_pos ⟨hst, hend⟩, if_neg (by omega), if_pos (by omega)]

theorem framerHeader_of_fits (hfits : total ≤ f.cfg.maxLen.toNat) :
    framerHeader f = .ok { f with ftot := total, fst := .body } := by
  rw [framerHeader, if_pos ⟨hst, hend⟩, if_neg (by omega), if_neg (by omega), htotal, Int.toNat_natCast]

end

section
variable {s : State} {byte : Byte}

theorem exec_fpush_of_closed (h : ¬(s.fr.fst = .header ∨ s.fr.fst = .body)) :
    exec (.fpush byte) s = .next (failed 8 s) :=
  (if_neg h).trans (raise_eq .fstate s)

variable (hst : s.fr.fst = .header ∨ s.fr.fst = .body)
include hst

theorem exec_fpush_of_error {e : ErrCode}
    (hhdr : framerHeader (framerConsume byte s.fr) = .error e) :
    exec (.fpush byte) s = .next (failed (errCode e).toNat
      { s with fr := { framerConsume byte s.fr with fst := .fault } }) := by
  rw [← raise_eq]
  simp only [exec, execFpush, if_pos hst, hhdr]

theorem exec_fpush_of_complete {f : Framer}
    (hhdr : framerHeader (framerConsume byte s.fr) = .ok f) (hfst : f.fst = .body)
    (hfpos : f.fpos = f.ftot) :
    exec (.fpush byte) s = .next (answered 1 { s with fr := { f with fst := .ready } }) := by
  rw [← respond_eq]
  simp only [exec, execFpush, if_pos hst, hhdr, if_pos ((framerComplete_iff f).2 ⟨hfst, hfpos⟩)]

theorem exec_fpush_of_awaiting {f : Framer}
    (hhdr : framerHeader (framerConsume byte s.fr) = .ok f) (hmore : f.fst = .body → f.fpos ≠ f.ftot) :
    exec (.fpush byte) s = .next (answered 0 { s with fr := f }) := by
  have hcomplete : ¬framerComplete f = true := fun h =>
    have ⟨hfst, hfpos⟩ := (framerComplete_iff f).1 h
    hmore hfst hfpos
  rw [← respond_eq]
  simp only [exec, execFpush, if_pos hst, hhdr, if_neg hcomplete]

end

/-- Settles O34: the framer state and the position of the byte decide between the four outcomes of
FPUSH. -/
theorem fpushConsumesOneByte : Obligations.FpushConsumesOneByte := by
  intro s byte f hf
  obtain rfl : f = framerConsume byte s.fr := hf
  refine ⟨fun hst => exec_fpush_of_closed ?closed, fun hst hpos => ?bodyMore, fun hst hpos => ?bodyLast,
    fun hst hpos => ?headerMore, fun hst hend hshort => ?short,
    fun hst hend total htotal he hstrip => ⟨fun hlong => ?long, fun hfits hne => ?fits,
      fun hfits heq => ?whole⟩⟩
  case closed => obtain hst | hst | hst := hst <;> simp [hst]
  case bodyMore =>
    have hhdr := framerHeader_of_incomplete (f := framerConsume byte s.fr) (by simp [hst])
    exact exec_fpush_of_awaiting (.inr hst) hhdr fun _ => hpos
  case bodyLast =>
    have hhdr := framerHeader_of_incomplete (f := framerConsume byte s.fr) (by simp [hst])
    exact exec_fpush_of_complete (.inr hst) hhdr hst hpos
  case headerMore =>
    have hhdr := framerHeader_of_incomplete (f := framerConsume byte s.fr) (by simp [hpos])
    exact exec_fpush_of_awaiting (.inl hst) hhdr fun hbody => by simp [hst] at hbody
  case short =>
    refine exec_fpush_of_error (e := .badlen) (.inl hst) (framerHeader_of_short hst hend ?_)
    rw [framerConsume_cfg]
    omega
  case long =>
    have hmin : max s.fr.cfg.e s.fr.cfg.strip.toNat ≤ total := max_le he hstrip
    have hhdr := framerHeader_of_long (f := framerConsume byte s.fr) hst hend htotal hmin hlong
    exact exec_fpush_of_error (e := .toolong) (.inl hst) hhdr
  case fits =>
    have hmin : max s.fr.cfg.e s.fr.cfg.strip.toNat ≤ total := max_le he hstrip
    have hhdr := framerHeader_of_fits (f := framerConsume byte s.fr) hst hend htotal hmin hfits
    exact exec_fpush_of_awaiting (.inl hst) hhdr fun _ hpos => hne (hpos.symm.trans hend)
  case whole =>
    have hmin : max s.fr.cfg.e s.fr.cfg.strip.toNat ≤ total := max_le he hstrip
    have hhdr := framerHeader_of_fits (f := framerConsume byte s.fr) hst hend htotal hmin hfits
    exact exec_fpush_of_complete (.inl hst) hhdr rfl (hend.trans heq.symm)

end Sys2Proof.Machine

/-! FTAKE, FEOF and FRST (43_framer.md R165 to R167). -/

namespace Sys2Proof.Machine

section
variable {s : State}

theorem exec_ftake_of_ready (h : s.fr.fst = .ready) :
    exec .ftake s = .next (answered (BitVec.ofNat 32 s.fr.flen)
      { s with buf := Memory.below s.fr.fbuf s.fr.flen, len := s.fr.flen
               fr := framerRestart s.fr }) :=
  (if_pos h).trans (respond_eq _ _)

theorem exec_ftake_of_ne_ready (h : s.fr.fst ≠ .ready) : exec .ftake s = .next (failed 8 s) :=
  (if_neg h).trans (raise_eq .fstate s)

end

/-- Settles O37: the emitted bytes all lie below FLEN, where the cut to FLEN keeps them. -/
theorem ftakeDeliversThePacket : Obligations.FtakeDeliversThePacket := by
  refine fun s => ⟨fun hready => ⟨_, exec_ftake_of_ready hready, rfl, rfl, fun k hk => ?read,
    framerRestart_eq_of_fixed, framerRestart_eq_of_ne_fixed⟩, exec_ftake_of_ne_ready⟩
  case read => rw [answered_buf, memory_read_below, if_pos hk]

/-- Settles O36: FRST looks at nothing, FEOF at the framer state and then at FPOS. -/
theorem feofAndFrstTurnTheFramerOff : Obligations.FeofAndFrstTurnTheFramerOff := by
  rintro s t rfl
  refine ⟨respond_eq 0 _, fun hopen => ⟨fun hpos => ?boundary, fun hpos => ?inside⟩,
    fun hclosed => ?closed⟩
  case boundary =>
    exact ((if_pos hopen).trans (if_neg (by omega))).trans (respond_eq 0 _)
  case inside =>
    exact ((if_pos hopen).trans (if_pos hpos)).trans (raise_eq .eof _)
  case closed =>
    have hnot : ¬(s.fr.fst = .header ∨ s.fr.fst = .body) := by
      obtain hst | hst | hst := hclosed <;> simp [hst]
    exact (if_neg hnot).trans (raise_eq .fstate s)

end Sys2Proof.Machine

/-! The total a header declares (43_framer.md R164, R170): the length field as a number in either byte
order, as a sum over its bytes and as a value of a byte list. -/

namespace Sys2Proof.Machine

/-! ### Numbers from bytes -/

theorem littleEndian_append_singleton (bytes : List Byte) (x : Byte) :
    littleEndian (bytes ++ [x]) = littleEndian bytes + x.toNat * 256 ^ bytes.length := by
  simp [littleEndian, Nat.ofDigits_append, Nat.mul_comm]

theorem bigEndian_append_singleton (bytes : List Byte) (x : Byte) :
    bigEndian (bytes ++ [x]) = bigEndian bytes * 256 + x.toNat := by
  simp [bigEndian, Nat.ofDigits_cons, Nat.mul_comm, Nat.add_comm]

/-- The little-endian decoder of R170 gives the number the bytes stand for. -/
theorem decodeLittle_eq_littleEndian (bytes : List Byte) : decodeLittle bytes = littleEndian bytes := by
  induction bytes with
  | nil => rfl
  | cons x bytes ih =>
    rw [decodeLittle, ih, littleEndian, littleEndian, List.map_cons, Nat.ofDigits_cons]

/-- The big-endian decoder of R170 gives the number the bytes stand for. -/
theorem decodeBig_eq_bigEndian (bytes : List Byte) : decodeBig bytes = bigEndian bytes := by
  induction bytes using List.reverseRecOn with
  | nil => rfl
  | append_singleton bytes x ih =>
    rw [bigEndian_append_singleton, ← ih, decodeBig, decodeBig, List.foldl_append]
    rfl

/-! ### Numbers from a range of a memory -/

theorem littleEndian_memory_bytes (m : Memory) (off n : Nat) :
    littleEndian (Memory.bytes m off n) =
      ∑ k ∈ Finset.range n, (Memory.read m (off + k)).toNat * 256 ^ k := by
  induction n with
  | zero => rfl
  | succ n ih =>
    rw [memory_bytes_succ, littleEndian_append_singleton, memory_bytes_length, ih,
      Finset.sum_range_succ]

theorem bigEndian_memory_bytes (m : Memory) (off n : Nat) :
    bigEndian (Memory.bytes m off n) =
      ∑ k ∈ Finset.range n, (Memory.read m (off + k)).toNat * 256 ^ (n - 1 - k) := by
  induction n with
  | zero => rfl
  | succ n ih =>
    have hshift : ∀ k ∈ Finset.range n, (Memory.read m (off + k)).toNat * 256 ^ (n + 1 - 1 - k) =
        (Memory.read m (off + k)).toNat * 256 ^ (n - 1 - k) * 256 := fun k hk => by
      have hexp : n + 1 - 1 - k = (n - 1 - k) + 1 := by
        have hlt := Finset.mem_range.1 hk
        omega
      rw [hexp, pow_succ, mul_assoc]
    rw [memory_bytes_succ, bigEndian_append_singleton, ih, Finset.sum_range_succ,
      Finset.sum_congr rfl hshift, ← Finset.sum_mul, Nat.add_sub_cancel, Nat.sub_self, pow_zero, mul_one]

/-! ### The declared total -/

section
variable {f : Framer}

theorem framerResolve_ccsds (h : f.cfg.mode = .ccsds) : framerResolve f =
    ((Memory.read f.fhdr 4).toNat * 256 + (Memory.read f.fhdr 5).toNat + 7 : Nat) := by
  simp [framerResolve, h]

/-- The length field of the header, as bytes. -/
def lengthField (f : Framer) : List Byte :=
  Memory.bytes f.fhdr f.cfg.lfOff.toNat f.cfg.lfLen.toNat

theorem framerResolve_generic (h : f.cfg.mode = .generic) : framerResolve f =
    ((if f.cfg.lfOrd = 0 then bigEndian (lengthField f) else littleEndian (lengthField f) : Nat) : Int) +
      f.cfg.lfAdj.toInt := by
  simp only [framerResolve, h, lfDecode, decodeBig_eq_bigEndian, decodeLittle_eq_littleEndian,
    lengthField, sext32]

end

/-- The two's-complement reading of the adjustment (R44 of 10_state.md). -/
theorem toInt_word_eq (v : Word) :
    v.toInt = if v.toNat < 2 ^ 31 then (v.toNat : Int) else (v.toNat : Int) - 2 ^ 32 := by
  rw [BitVec.toInt_eq_toNat_cond]
  split_ifs <;> omega

/-- Settles O35: the decoded field as a sum over its bytes, plus the adjustment. -/
theorem headerResolvesToDeclaredTotal : Obligations.HeaderResolvesToDeclaredTotal := by
  refine fun f => ⟨framerResolve_ccsds, fun hmode hbig => ?big, fun hmode hlittle => ?little⟩
  case big =>
    rw [framerResolve_generic hmode, if_pos hbig, lengthField, bigEndian_memory_bytes, toInt_word_eq]
  case little =>
    have hne : f.cfg.lfOrd ≠ 0 := by rw [hlittle]; decide
    rw [framerResolve_generic hmode, if_neg hne, lengthField, littleEndian_memory_bytes, toInt_word_eq]

end Sys2Proof.Machine

/-! Which changes of the framer's state each command makes (43_framer.md R161, R172). -/

namespace Sys2Proof.Machine

/-- One of the moves R161 lists for `i`, or none. -/
def FramerMoveListed (i : Instr) (s u : State) : Prop :=
  u.fr.fst = s.fr.fst ∨ framerMoves i s.fr.fst u.fr.fst

section
variable {s : State}

theorem framerRestart_fst (f : Framer) :
    (framerRestart f).fst = .header ∨ (framerRestart f).fst = .body := by
  by_cases hmode : f.cfg.mode = .fixed
  · exact .inr (framerRestart_fixed f hmode).1
  · exact .inl (framerRestart_other f hmode).1

theorem framerMoveListed_finit : AnswersOn (FramerMoveListed .finit s) (exec .finit s) := by
  cases hcheck : finitHeader s.params.bufsz s.csr with
  | none =>
    rw [exec_finit_of_none hcheck]
    exact ⟨_, .inr (.inr (.inr rfl)), .inr ⟨.config, rfl⟩⟩
  | some e =>
    rw [exec_finit_of_some hcheck]
    exact ⟨_, .inr ((framerRestart_fst _).imp_right .inl), .inl ⟨0, rfl⟩⟩

theorem framerMoveListed_fpush (byte : Byte) :
    AnswersOn (FramerMoveListed (.fpush byte) s) (exec (.fpush byte) s) := by
  by_cases hst : s.fr.fst = .header ∨ s.fr.fst = .body
  case neg =>
    rw [exec_fpush_of_closed hst]
    exact ⟨s, .inl rfl, .inr ⟨.fstate, rfl⟩⟩
  cases hhdr : framerHeader (framerConsume byte s.fr) with
  | error e =>
    obtain ⟨hheader, -⟩ := framerHeader_error hhdr
    rw [exec_fpush_of_error hst hhdr]
    exact ⟨_, .inr (.inl ⟨hheader, .inr (.inr rfl)⟩), .inr ⟨e, rfl⟩⟩
  | ok f =>
    by_cases hdone : f.fst = .body ∧ f.fpos = f.ftot
    · rw [exec_fpush_of_complete hst hhdr hdone.1 hdone.2]
      refine ⟨_, .inr ?_, .inl ⟨1, rfl⟩⟩
      exact hst.imp (fun hheader => ⟨hheader, .inr (.inl rfl)⟩) fun hbody => ⟨hbody, rfl⟩
    · rw [exec_fpush_of_awaiting hst hhdr fun hbody hpos => hdone ⟨hbody, hpos⟩]
      refine ⟨_, ?_, .inl ⟨0, rfl⟩⟩
      obtain ⟨-, rfl⟩ | ⟨total, ⟨hheader, -⟩, -, -, rfl⟩ := framerHeader_ok hhdr
      · exact .inl rfl
      · exact .inr (.inl ⟨hheader, .inl rfl⟩)

theorem framerMoveListed_feof : AnswersOn (FramerMoveListed .feof s) (exec .feof s) := by
  by_cases hopen : s.fr.fst = .header ∨ s.fr.fst = .body
  · have hmove : FramerMoveListed .feof s { s with fr := framerOff s.fr } := .inr ⟨hopen, rfl⟩
    exact answersOn_ite (answersOn_ite (answersOn_raise _ hmove) (answersOn_respond _ hmove))
      (answersOn_raise _ (.inl rfl))
  · have hrefused : exec .feof s = raise .fstate s := if_neg hopen
    rw [hrefused]
    exact answersOn_raise _ (.inl rfl)

theorem framerMoveListed_ftake : AnswersOn (FramerMoveListed .ftake s) (exec .ftake s) := by
  by_cases hready : s.fr.fst = .ready
  · rw [exec_ftake_of_ready hready]
    exact ⟨_, .inr ⟨hready, framerRestart_fst s.fr⟩, .inl ⟨_, rfl⟩⟩
  · rw [exec_ftake_of_ne_ready hready]
    exact ⟨s, .inl rfl, .inr ⟨.fstate, rfl⟩⟩

end

theorem framerMoveListed_exec (i : Instr) (s : State) :
    AnswersOn (FramerMoveListed i s) (exec i s) := by
  obtain hframer | hkept := exec_keeps_framer i s
  · obtain rfl | rfl | rfl | rfl | rfl | ⟨byte, rfl⟩ := hframer
    · exact answersOn_respond 0 (.inr rfl)
    · exact framerMoveListed_finit
    · exact framerMoveListed_feof
    · exact framerMoveListed_ftake
    · exact answersOn_respond 0 (.inr rfl)
    · exact framerMoveListed_fpush byte
  · exact hkept.mono fun _ hfr => .inl (congrArg Framer.fst hfr)

/-- Of the moves listed, those from FAULT are of FINIT, FRST and SRST (R172). -/
theorem framerMoves_from_fault {i : Instr} {after : FState} (h : framerMoves i .fault after) :
    i = .finit ∨ i = .frst ∨ i = .srst := by
  cases i with
  | finit | frst | srst => simp
  | _ => simp [framerMoves] at h

/-- Settles O41: the framer commands one by one, every other command keeping the framer; then the list
read from FAULT. -/
theorem framerMovesAsListed : Obligations.FramerMovesAsListed := by
  intro i s t hexec
  obtain ⟨u, rsp, event, hlisted, rfl⟩ := (hexec ▸ framerMoveListed_exec i s).of_next
  refine ⟨hlisted, fun hfault hleft => ?_⟩
  have hmove : framerMoves i s.fr.fst u.fr.fst := hlisted.resolve_left fun heq => hleft (heq.trans hfault)
  exact framerMoves_from_fault (hfault ▸ hmove)

end Sys2Proof.Machine

/-! Framing a stream (43_framer.md R168 to R171): what the framer holds after a run of pushes, for any
configuration and any stream that is one packet under it; then the three variants. -/

namespace Sys2Proof.Machine

/-- The framer has consumed exactly `bytes` of its packet: those of the header kept in FHDR, those past
the stripped ones emitted into FBUF (R163). -/
structure Consumed (bytes : List Byte) (f : Framer) : Prop where
  fpos : f.fpos = bytes.length
  flen : f.flen = bytes.length - f.cfg.strip.toNat
  kept : ∀ (k : Nat) (h : k < bytes.length), k < f.cfg.e → Memory.read f.fhdr k = bytes[k]
  emitted : ∀ (k : Nat) (h : f.cfg.strip.toNat + k < bytes.length),
    Memory.read f.fbuf k = bytes[f.cfg.strip.toNat + k]

/-- `bytes` is one whole packet under the configuration `cfg`: every header that starts with its bytes
resolves to its length, which passes the tests of R163. -/
structure IsPacket (cfg : FrameCfg) (bytes : List Byte) : Prop where
  nonempty : 0 < bytes.length
  header : cfg.e ≤ bytes.length
  strip : cfg.strip.toNat ≤ bytes.length
  maxLen : 0 < cfg.e → bytes.length ≤ cfg.maxLen.toNat
  total : ∀ f : Framer, f.cfg = cfg →
    (∀ (k : Nat) (h : k < bytes.length), k < cfg.e → Memory.read f.fhdr k = bytes[k]) →
    framerResolve f = (bytes.length : Int)

/-- The framer state after `m` bytes of a packet of `n` bytes with a header of `e` (R161). -/
def stageAfter (e n m : Nat) : FState :=
  if m < e then .header else if m < n then .body else .ready

/-- The framer after the first `m` bytes of the packet `bytes`. -/
structure Delivering (cfg : FrameCfg) (bytes : List Byte) (m : Nat) (f : Framer) : Prop where
  latched : f.cfg = cfg
  consumed : Consumed (bytes.take m) f
  fst : f.fst = stageAfter cfg.e bytes.length m
  ftot : cfg.e ≤ m → f.ftot = bytes.length

section
variable {e n m : Nat}

theorem stageAfter_header (h : m < e) : stageAfter e n m = .header := if_pos h

theorem stageAfter_body (he : e ≤ m) (hn : m < n) : stageAfter e n m = .body :=
  (if_neg (not_lt.2 he)).trans (if_pos hn)

theorem stageAfter_ready (he : e ≤ n) : stageAfter e n n = .ready :=
  (if_neg (not_lt.2 he)).trans (if_neg (lt_irrefl n))

end

section
variable {cfg : FrameCfg} {bytes : List Byte} {m : Nat} {f : Framer} {s : State}

/-- At the start of a packet nothing is consumed. -/
theorem consumed_nil (hfpos : f.fpos = 0) (hflen : f.flen = 0) : Consumed [] f where
  fpos := hfpos
  flen := by rw [hflen, List.length_nil, Nat.zero_sub]
  kept _ h := absurd h (Nat.not_lt_zero _)
  emitted _ h := absurd h (Nat.not_lt_zero _)

/-- One more byte consumed. -/
theorem consumed_framerConsume (h : Consumed bytes f) (x : Byte) :
    Consumed (bytes ++ [x]) (framerConsume x f) := by
  refine ⟨?fpos, ?flen, fun k hk he => ?kept, fun k hk => ?emitted⟩
  case fpos => rw [framerConsume_fpos, h.fpos, List.length_append, List.length_singleton]
  case flen =>
    rw [framerConsume_flen_eq x (h.fpos ▸ h.flen), h.fpos, framerConsume_cfg, List.length_append,
      List.length_singleton]
  case kept =>
    rw [framerConsume_cfg] at he
    rw [List.length_append, List.length_singleton] at hk
    obtain hold | rfl := Nat.lt_succ_iff_lt_or_eq.1 hk
    · rw [List.getElem_append_left hold, ← h.kept k hold he, framerConsume_fhdr]
      split
      · exact memory_read_write_other _ _ _ _ (by rw [h.fpos]; omega)
      · rfl
    · rw [List.getElem_concat_length rfl, framerConsume_fhdr, if_pos (by rwa [h.fpos]), h.fpos,
        memory_read_write_same]
  case emitted =>
    simp only [framerConsume_cfg] at hk ⊢
    rw [List.length_append, List.length_singleton] at hk
    have hflen := h.flen
    rw [framerConsume_fbuf, if_pos (by rw [h.fpos]; omega), memory_read_write]
    obtain hold | hlast := Nat.lt_succ_iff_lt_or_eq.1 hk
    · rw [List.getElem_append_left hold, ← h.emitted k hold, if_neg (by omega)]
    · rw [List.getElem_concat_length hlast, if_pos (by omega)]

/-- What is consumed is a matter of the buffers and the positions: FST and FTOT may be set after it. -/
theorem delivering_withStage {st : FState} {total : Nat} (hcfg : f.cfg = cfg)
    (hconsumed : Consumed (bytes.take m) f) (hst : st = stageAfter cfg.e bytes.length m)
    (htotal : cfg.e ≤ m → total = bytes.length) :
    Delivering cfg bytes m { f with fst := st, ftot := total } :=
  ⟨hcfg, ⟨hconsumed.fpos, hconsumed.flen, hconsumed.kept, hconsumed.emitted⟩, hst, htotal⟩

/-- A framer just restarted is at the start of any packet (R162). -/
theorem delivering_zero (hcfg : f.cfg = cfg) (hfpos : f.fpos = 0) (hflen : f.flen = 0)
    (hfst : f.fst = stageAfter cfg.e bytes.length 0) (hftot : cfg.e = 0 → f.ftot = bytes.length) :
    Delivering cfg bytes 0 f :=
  ⟨hcfg, consumed_nil hfpos hflen, hfst, fun h => hftot (Nat.le_zero.1 h)⟩

/-- The header of the packet, once kept, resolves to the packet's length. -/
theorem Consumed.resolves (hpacket : IsPacket cfg bytes) (hcfg : f.cfg = cfg) (he : cfg.e ≤ m)
    (h : Consumed (bytes.take m) f) : framerResolve f = (bytes.length : Int) := by
  refine hpacket.total f hcfg fun k hk hke => ?_
  have hlen : k < (bytes.take m).length := by rw [List.length_take]; omega
  rw [h.kept k hlen (hcfg ▸ hke), List.getElem_take]

/-- Pushing the next byte of the packet: answered 1 when it is the last, 0 otherwise (R163). -/
theorem exec_fpush_delivering (hpacket : IsPacket cfg bytes) (h : Delivering cfg bytes m s.fr)
    (hm : m < bytes.length) :
    ∃ t, exec (.fpush bytes[m]) s = .next t ∧ Delivering cfg bytes (m + 1) t.fr ∧
      t.rsp = some (if m + 1 = bytes.length then 1 else 0) := by
  obtain ⟨hcfg, hconsumed, hfst, hftot⟩ := h
  have hfpos : s.fr.fpos = m := by rw [hconsumed.fpos, List.length_take]; omega
  have hnext : Consumed (bytes.take (m + 1)) (framerConsume bytes[m] s.fr) :=
    List.take_append_getElem hm ▸ consumed_framerConsume hconsumed bytes[m]
  have hstage {st : FState} {total : Nat} := delivering_withStage (st := st) (total := total)
    (f := framerConsume bytes[m] s.fr) hcfg hnext
  have he := hpacket.header
  obtain ⟨-, hbodyMore, hbodyLast, hheaderMore, -, hheaderLast⟩ :=
    fpushConsumesOneByte s bytes[m] (framerConsume bytes[m] s.fr) rfl
  rw [hcfg, hfpos] at hheaderMore hheaderLast
  rw [hfpos] at hbodyMore hbodyLast
  obtain hlt | heq | hgt := lt_trichotomy (m + 1) cfg.e
  case inl =>
    rw [stageAfter_header (by omega)] at hfst
    rw [if_neg (by omega)]
    exact ⟨_, hheaderMore hfst (by omega),
      hstage (hfst.trans (stageAfter_header hlt).symm) (by omega), rfl⟩
  case inr.inl =>
    rw [stageAfter_header (by omega)] at hfst
    have hmax := hpacket.maxLen (by omega)
    obtain ⟨-, hfits, hwhole⟩ := hheaderLast hfst heq bytes.length
      (hnext.resolves hpacket hcfg heq.ge) he hpacket.strip
    by_cases hlast : m + 1 = bytes.length
    · rw [if_pos hlast]
      refine ⟨_, hwhole hmax (hlast.symm.trans heq), hstage ?_ fun _ => rfl, rfl⟩
      rw [hlast, stageAfter_ready he]
    · rw [if_neg hlast]
      exact ⟨_, hfits hmax fun h => hlast (heq.trans h.symm),
        hstage (stageAfter_body heq.ge (by omega)).symm fun _ => rfl, rfl⟩
  case inr.inr =>
    rw [stageAfter_body (by omega) hm] at hfst
    rw [hftot (by omega)] at hbodyMore hbodyLast
    by_cases hlast : m + 1 = bytes.length
    · rw [if_pos hlast]
      refine ⟨_, hbodyLast hfst hlast, hstage ?_ fun _ => hftot (by omega), rfl⟩
      rw [hlast, stageAfter_ready he]
    · rw [if_neg hlast]
      exact ⟨_, hbodyMore hfst hlast, hstage
        (hfst.trans (stageAfter_body (by omega) (by omega)).symm) fun _ => hftot (by omega), rfl⟩

theorem runCommands_append_of_next {is js : List Instr} {s t : State}
    (h : runCommands is s = .next t) : runCommands (is ++ js) s = runCommands js t := by
  induction is generalizing s with
  | nil =>
    cases h
    rfl
  | cons i is ih =>
    rw [List.cons_append, runCommands]
    rw [runCommands] at h
    split at h
    next => exact ih h
    next => cases h
    next => cases h

theorem runCommands_singleton (i : Instr) (s : State) : runCommands [i] s = exec i s := by
  rw [runCommands]
  cases exec i s <;> rfl

theorem ffeed_append_singleton (bytes : List Byte) (x : Byte) :
    ffeed (bytes ++ [x]) = ffeed bytes ++ [.fpush x] := List.map_append

/-- A run of pushes: the framer follows the stream, and the last answer tells whether the packet is
complete. -/
theorem runCommands_ffeed (hpacket : IsPacket cfg bytes) (hstart : Delivering cfg bytes 0 s.fr)
    (hm : m ≤ bytes.length) :
    ∃ t, runCommands (ffeed (bytes.take m)) s = .next t ∧ Delivering cfg bytes m t.fr ∧
      (0 < m → t.rsp = some (if m = bytes.length then 1 else 0)) := by
  induction m with
  | zero => exact ⟨s, rfl, hstart, fun h => absurd h (lt_irrefl 0)⟩
  | succ m ih =>
    obtain ⟨t, hrun, hdelivering, -⟩ := ih (by omega)
    obtain ⟨u, hexec, hnext, hrsp⟩ := exec_fpush_delivering hpacket hdelivering hm
    refine ⟨u, ?run, hnext, fun _ => hrsp⟩
    case run =>
      rw [← List.take_append_getElem hm, ffeed_append_singleton, runCommands_append_of_next hrun,
        runCommands_singleton, hexec]

/-- FTAKE after the last byte of the packet delivers it from position STRIP on (R166). -/
theorem exec_ftake_delivering (hpacket : IsPacket cfg bytes)
    (h : Delivering cfg bytes bytes.length s.fr) :
    ∃ t, exec .ftake s = .next t ∧ t.len = bytes.length - cfg.strip.toNat ∧
      ∀ (k : Nat) (h : cfg.strip.toNat + k < bytes.length),
        Memory.read t.buf k = bytes[cfg.strip.toNat + k] := by
  obtain ⟨rfl, hconsumed, hfst, -⟩ := h
  rw [List.take_length] at hconsumed
  obtain ⟨t, hexec, hlen, -, hread, -⟩ :=
    (ftakeDeliversThePacket s).1 (hfst.trans (stageAfter_ready hpacket.header))
  rw [hconsumed.flen] at hlen hread
  exact ⟨t, hexec, hlen, fun k hk => (hread k (by omega)).trans (hconsumed.emitted k hk)⟩

/-- After FINIT every push of `bytes` is answered 0, but for the last, which is answered 1. -/
def PushAnswers (s : State) (bytes : List Byte) : Prop :=
  ∀ m, 0 < m → m ≤ bytes.length →
    ∃ t, runCommands (Instr.finit :: ffeed (bytes.take m)) s = .next t ∧
      t.rsp = some (if m = bytes.length then 1 else 0)

/-- The whole sequence FINIT, pushes, FTAKE on a packet of the constructed configuration. -/
theorem framing_delivers (hpacket : IsPacket cfg bytes)
    (hfinit : exec .finit s = .next (answered 0 { s with fr := f }))
    (hstart : Delivering cfg bytes 0 f) :
    PushAnswers s bytes ∧
    ∃ t, runCommands (frameAndTake bytes) s = .next t ∧ t.len = bytes.length - cfg.strip.toNat ∧
      ∀ (k : Nat) (h : cfg.strip.toNat + k < bytes.length),
        Memory.read t.buf k = bytes[cfg.strip.toNat + k] := by
  have hpushes {m : Nat} (hm : m ≤ bytes.length) :=
    runCommands_ffeed (s := answered 0 { s with fr := f }) hpacket hstart hm
  refine ⟨fun m hpos hm => ?answers, ?delivery⟩
  case answers =>
    obtain ⟨t, hrun, -, hrsp⟩ := hpushes hm
    exact ⟨t, (runCommands_cons_of_next hfinit).trans hrun, hrsp hpos⟩
  case delivery =>
    obtain ⟨t, hrun, hdelivering, -⟩ := hpushes le_rfl
    rw [List.take_length] at hrun
    obtain ⟨u, hexec, hdelivered⟩ := exec_ftake_delivering hpacket hdelivering
    refine ⟨u, ?_, hdelivered⟩
    rw [frameAndTake, runCommands_cons_of_next hfinit, runCommands_append_of_next hrun,
      runCommands_singleton, hexec]

/-- Without stripping the packet is delivered whole. -/
theorem framing_delivers_whole (hpacket : IsPacket cfg bytes) (hstrip : cfg.strip = 0)
    (hfinit : exec .finit s = .next (answered 0 { s with fr := f }))
    (hstart : Delivering cfg bytes 0 f) :
    PushAnswers s bytes ∧
    ∃ t, runCommands (frameAndTake bytes) s = .next t ∧ t.len = bytes.length ∧
      ∀ (k : Nat) (h : k < bytes.length), Memory.read t.buf k = bytes[k] := by
  obtain ⟨hanswers, hdelivery⟩ := framing_delivers hpacket hfinit hstart
  exact ⟨hanswers, by simpa [hstrip] using hdelivery⟩

end

/-- Settles O38: with no header every PKTSIZE bytes are a packet. -/
theorem fixedFramingDeliversTheBytes : Obligations.FixedFramingDeliversTheBytes := by
  intro s bytes hmode hlen hpos
  obtain ⟨hfinit, -⟩ := finitConstructsOrRefuses s
  refine framing_delivers_whole ?packet rfl (hfinit hmode (hlen ▸ hpos))
    (delivering_zero rfl rfl rfl (stageAfter_body le_rfl hpos).symm fun _ => hlen.symm)
  case packet =>
    refine ⟨hpos, Nat.zero_le _, Nat.zero_le _, nofun, fun f hcfg _ => ?_⟩
    simp [framerResolve, hcfg, hlen]

/-- Settles O39: bytes 4 and 5 are kept in the header, and they declare the length. -/
theorem ccsdsFramingDeliversTheBytes : Obligations.CcsdsFramingDeliversTheBytes := by
  intro s bytes b4 b5 hmode h4 h5 hlen hmax
  obtain ⟨-, hfinit, -⟩ := finitConstructsOrRefuses s
  refine framing_delivers_whole ?packet rfl (hfinit hmode (by omega))
    (delivering_zero rfl rfl rfl (stageAfter_header (by simp)).symm nofun)
  case packet =>
    refine ⟨by omega, ?_, Nat.zero_le _, fun _ => hmax, fun f hcfg hkept => ?_⟩
    · change 6 ≤ bytes.length
      omega
    · obtain ⟨hlt4, rfl⟩ := List.getElem?_eq_some_iff.1 h4
      obtain ⟨hlt5, rfl⟩ := List.getElem?_eq_some_iff.1 h5
      rw [framerResolve_ccsds (by rw [hcfg]), hkept 4 hlt4 (by simp), hkept 5 hlt5 (by simp), hlen]

/-- The length field is the part of the header that starts at LFOFF (R170). -/
theorem lengthField_eq {f : Framer} {bytes : List Byte}
    (hfit : f.cfg.lfOff.toNat + f.cfg.lfLen.toNat ≤ bytes.length)
    (hkept : ∀ (k : Nat) (h : k < bytes.length), k < f.cfg.lfOff.toNat + f.cfg.lfLen.toNat →
      Memory.read f.fhdr k = bytes[k]) :
    lengthField f = (bytes.drop f.cfg.lfOff.toNat).take f.cfg.lfLen.toNat := by
  have hlen : (lengthField f).length = f.cfg.lfLen.toNat := memory_bytes_length _ _ _
  apply List.ext_getElem
  · rw [hlen, List.length_take, List.length_drop]
    omega
  · intro k hk _
    rw [hlen] at hk
    rw [List.getElem_take, List.getElem_drop, ← hkept _ (by omega) (by omega)]
    exact memory_bytes_get _ _ _ _ hk

/-- Settles O40: the length field is kept in the header, and it declares the length. -/
theorem genericFramingDeliversTheBytes : Obligations.GenericFramingDeliversTheBytes := by
  intro s bytes hmode hset hlfLen hfit hheader hstrip hmax htotal
  obtain ⟨-, -, hfinit, -⟩ := finitConstructsOrRefuses s
  have he : 0 < s.csr.lfOff.toNat + s.csr.lfLen.toNat := by omega
  refine (framing_delivers ?packet (hfinit hmode hset hfit)
    (delivering_zero rfl rfl rfl (stageAfter_header he).symm fun h => absurd h he.ne')).2
  case packet =>
    refine ⟨by omega, hheader, hstrip, fun _ => hmax, fun f hcfg hkept => ?_⟩
    have hfield := lengthField_eq (f := f) (by rw [hcfg]; exact hheader) (by rw [hcfg]; exact hkept)
    rw [framerResolve_generic (by rw [hcfg]), hfield, hcfg, htotal]

end Sys2Proof.Machine

/-! The sequence tracker on reception (44_rx_pipeline.md R207 to R210): when a count is a gap, what SEQCHK
leaves, and a run of consecutive counts. -/

namespace Sys2Proof.Machine

section
variable {t : SeqTable} {apid : Apid} {seq l : SeqCount}

theorem seqGap_of_none (h : seqGet t apid = none) : seqGap t apid seq = false := by
  rw [seqGap, h]

theorem seqGap_of_some (h : seqGet t apid = some l) : seqGap t apid seq = (seq != l + 1) := by
  rw [seqGap, h]

/-- The successor of the last count is no gap, at the wrap too (R208). -/
theorem seqGap_successor (h : seqGet t apid = some l) : seqGap t apid (l + 1) = false := by
  rw [seqGap_of_some h, bne_self_eq_false]

/-- A gap is a valid entry whose successor modulo 2^14 is not the count (R208). -/
theorem seqGap_iff : seqGap t apid seq = true ↔
    ∃ l, seqGet t apid = some l ∧ seq.toNat ≠ (l.toNat + 1) % 16384 := by
  cases h : seqGet t apid with
  | none => simp [seqGap_of_none h]
  | some l => simp [seqGap_of_some h, ← BitVec.toNat_inj (x := seq)]

/-- A table after its entry is set, at that entry and at the others (10_state.md R24). -/
theorem seqGet_seqSet_cases (t : SeqTable) (apid : Apid) (seq : SeqCount) :
    seqGet (seqSet t apid seq) apid = some seq ∧
      ∀ b, b ≠ apid → seqGet (seqSet t apid seq) b = seqGet t b :=
  ⟨by rw [seqGet_seqSet, if_pos rfl], fun b hb => by rw [seqGet_seqSet, if_neg hb]⟩

/-- The packed form of a valid entry as a number (R210, 45_tx_pipeline.md R229). -/
theorem packSeqEntry_some (l : SeqCount) :
    packSeqEntry (some l) = BitVec.ofNat 32 (65536 + l.toNat) := by
  apply BitVec.eq_of_toNat_eq
  simp only [packSeqEntry, toNat_append_eq_mul_add, BitVec.toNat_ofNat]
  omega

end

section
variable (s : State) (apid : Apid) (seq : SeqCount)

/-- The state SEQCHK leaves, but for the response (R208, R209). -/
def tracked : State :=
  { s with
    rxSeq := seqSet s.rxSeq apid seq
    event := setEvent (seqGap s.rxSeq apid seq) evSeqGap s.event }

theorem exec_seqchk : exec (.seqchk apid seq) s =
    .next (answered (if seqGap s.rxSeq apid seq then 1 else 0) (tracked s apid seq)) := by
  have hval (b : Bool) : (BitVec.ofBool b).setWidth 32 = if b then 1 else 0 := by cases b <;> rfl
  rw [← hval]
  exact respond_eq _ _

theorem exec_seqget :
    exec (.seqget apid) s = .next (answered (packSeqEntry (seqGet s.rxSeq apid)) s) := respond_eq _ _

/-- SEQCHK of a count that is no gap answers 0 and sets no event (R209). -/
theorem exec_seqchk_of_no_gap (h : seqGap s.rxSeq apid seq = false) :
    ∃ t, exec (.seqchk apid seq) s = .next t ∧ t.rsp = some 0 ∧ t.event = s.event ∧
      seqGet t.rxSeq apid = some seq := by
  refine ⟨_, exec_seqchk s apid seq, ?rsp, ?event, (seqGet_seqSet_cases s.rxSeq apid seq).1⟩
  case rsp => rw [h]; rfl
  case event => rw [answered_event, tracked, h, setEvent_false]

end

/-- Settles O42: the gap is the one `seqGap` finds, and the table changes at one entry. -/
theorem seqchkComparesWithTheLastCount : Obligations.SeqchkComparesWithTheLastCount := by
  intro s apid seq
  refine ⟨⟨_, seqGap s.rxSeq apid seq, seqGap_iff, exec_seqchk s apid seq, rfl, rfl,
    seqGet_seqSet_cases s.rxSeq apid seq⟩, fun l hl => ?valid, fun hnone => ?invalid⟩
  case valid => rw [exec_seqget, hl, packSeqEntry_some]
  case invalid => rw [exec_seqget, hnone]; rfl

/-- Settles O43, by induction on the length of the run: the first count meets no entry, each later one
the entry of its predecessor. -/
theorem consecutiveCountsNeverGap : Obligations.ConsecutiveCountsNeverGap := by
  intro s apid q k hnone
  induction k with
  | zero =>
    have hfirst := exec_seqchk_of_no_gap s apid (q + BitVec.ofNat 14 0) (seqGap_of_none hnone)
    rwa [← runCommands_singleton] at hfirst
  | succ k ih =>
    obtain ⟨t, hrun, -, hevent, hlast⟩ := ih
    have hsucc : q + BitVec.ofNat 14 k + 1 = q + BitVec.ofNat 14 (k + 1) := by
      rw [BitVec.ofNat_add, BitVec.add_assoc]
      rfl
    obtain ⟨u, hexec, hrsp, hkept, hcount⟩ :=
      exec_seqchk_of_no_gap t apid (q + BitVec.ofNat 14 (k + 1)) (hsucc ▸ seqGap_successor hlast)
    refine ⟨u, ?run, hrsp, hkept.trans hevent, hcount⟩
    rw [List.range_succ, List.map_append, runCommands_append_of_next hrun]
    exact (runCommands_singleton _ t).trans hexec

end Sys2Proof.Machine

/-! The fields of the packet in BUF that both pipelines read, as the numbers its bytes give
(42_ccsds_header.md R120, R146). -/

namespace Sys2Proof.Machine

section
variable (s : State)

theorem toNat_headerWord0 : (Memory.read2 s.buf 0).toNat = byteAt s 0 * 256 + byteAt s 1 :=
  memory_read2_toNat s.buf 0

theorem toNat_headerWord1 : (Memory.read2 s.buf 2).toNat = byteAt s 2 * 256 + byteAt s 3 :=
  memory_read2_toNat s.buf 2

theorem toNat_hdrApid_packet : (hdrApid (Memory.read2 s.buf 0)).toNat = packetApid s := by
  have hb1 := byteAt_lt s 1
  rw [hdrApid, toNat_extractLsb'_eq_div_mod, toNat_headerWord0, packetApid]
  omega

theorem toNat_hdrSeqCount_packet : (hdrSeqCount (Memory.read2 s.buf 2)).toNat = packetSeq s := by
  have hb3 := byteAt_lt s 3
  rw [hdrSeqCount, toNat_extractLsb'_eq_div_mod, toNat_headerWord1, packetSeq]
  omega

theorem hdrShf_packet_iff : (hdrShf (Memory.read2 s.buf 0) == 1) = true ↔ PacketHasShf s := by
  have hb1 := byteAt_lt s 1
  have hfield : (hdrShf (Memory.read2 s.buf 0)).toNat = byteAt s 0 / 8 % 2 := by
    rw [hdrShf, toNat_extractLsb'_eq_div_mod, toNat_headerWord0]
    omega
  rw [beq_iff_eq, ← BitVec.toNat_inj, hfield]
  rfl

theorem ckiBit_iff (k : Nat) (x : Byte) : ckiBit k x = true ↔ x.toNat / 2 ^ k % 2 = 1 := by
  rw [← toNat_ofBool_ckiBit]
  cases ckiBit k x <;> decide

theorem ckiEff_iff : ckiEff s = true ↔ PacketHasCki s := by
  rw [ckiEff, Bool.and_eq_true, Bool.and_eq_true, hdrShf_packet_iff, decide_eq_true_iff, ckiBit_iff,
    and_assoc]
  rfl

end

/-- Only the sum has no value, over an odd number of bytes (41_checksum.md R110). -/
theorem cksumOf_eq_none_iff {sel : CkSel} {iv : Half} {bytes : List Byte} :
    cksumOf sel iv bytes = none ↔ sel = .sum ∧ bytes.length % 2 = 1 := by
  cases sel with
  | sum => simp [cksumOf]
  | crc | fletcher => simp [cksumOf]

/-- A flag set where `b` holds is a mask joined where `b` holds (10_state.md R25). -/
theorem setEvent_eq_or (b : Bool) (mask event : Byte) :
    setEvent b mask event = event ||| if b then mask else 0 := by
  cases b with
  | false => exact BitVec.or_zero.symm
  | true => rfl

end Sys2Proof.Machine

/-! RXPROC (44_rx_pipeline.md R201 to R206). -/

namespace Sys2Proof.Machine

theorem toNat_packRxFlags (corrupt gap shf cki ckfail : Bool) :
    (packRxFlags corrupt gap shf cki ckfail).toNat =
      2 * corrupt.toNat + 4 * gap.toNat + 8 * shf.toNat + 16 * cki.toNat + 32 * ckfail.toNat := by
  simp only [packRxFlags, toNat_append_eq_mul_add, BitVec.toNat_ofBool, BitVec.toNat_ofNat]
  omega

theorem toNat_packSeqId (apid : Apid) (seq : SeqCount) :
    (packSeqId apid seq).toNat = apid.toNat * 65536 + seq.toNat := by
  simp only [packSeqId, toNat_append_eq_mul_add, BitVec.toNat_ofNat]
  omega

section
variable {s : State}

theorem exec_rxproc_of_lt (h : s.len < s.csr.rxMin.toNat) :
    exec .rxproc s = .next (answered 1 (rxDrop s)) :=
  (if_pos h).trans (respond_eq _ _)

/-- Every read is in bounds from the floor of RXMIN up (00_scope.md R6, R201). -/
theorem rxReads_of_floor_le (h : s.params.rxminFloor ≤ s.len) :
    rxReads s = .ok (Memory.read2 s.buf 0, Memory.read2 s.buf 2,
      Memory.read4 s.buf s.params.shCoarseOff, Memory.read s.buf s.params.shFineOff) := by
  unfold Params.rxminFloor Params.shEnd at h
  rw [rxReads, memRead2_ok (by omega), memRead2_ok (by omega), memRead4_ok (by omega),
    memRead1_ok (by omega)]
  rfl

/-- What RXPROC leaves of a packet it does not drop, but for the response. -/
def received (s : State) : State :=
  rxFinish s (Memory.read2 s.buf 0) (Memory.read2 s.buf 2)
    (Memory.read4 s.buf s.params.shCoarseOff) (Memory.read s.buf s.params.shFineOff)

theorem exec_rxproc_of_le (hfloor : s.params.rxminFloor ≤ s.len) (hmin : s.csr.rxMin.toNat ≤ s.len) :
    exec .rxproc s = .next (answered ((received s).rx.flags.setWidth 32) (received s)) := by
  calc exec .rxproc s = execRxproc s := rfl
    _ = respond ((received s).rx.flags.setWidth 32) (received s) := by
      rw [execRxproc, if_neg (not_lt.2 hmin), rxReads_of_floor_le hfloor]
      rfl
    _ = _ := respond_eq _ _

/-- Without an effective indicator nothing is verified (R205). -/
theorem rxVerify_false : rxVerify s false = (false, false) := rfl

/-- Where the checksum has no value the packet counts as corrupt and CKFAIL is set (R205). -/
theorem rxVerify_of_none
    (h : cksumOf s.csr.ckSel s.csr.crcIv (Memory.bytes s.buf 0 (s.len - 2)) = none) :
    rxVerify s true = (true, true) := by
  rw [rxVerify, if_pos rfl, h]

theorem rxVerify_of_some {c : Half}
    (h : cksumOf s.csr.ckSel s.csr.crcIv (Memory.bytes s.buf 0 (s.len - 2)) = some c) :
    rxVerify s true = (c != Memory.read2 s.buf (s.len - 2), false) := by
  rw [rxVerify, if_pos rfl, h]

theorem rxVerify_corrupt_iff {cki : Bool} : (rxVerify s cki).1 = true ↔ cki = true ∧
    cksumOf s.csr.ckSel s.csr.crcIv (Memory.bytes s.buf 0 (s.len - 2)) ≠
      some (Memory.read2 s.buf (s.len - 2)) := by
  cases cki with
  | false => simp [rxVerify_false]
  | true =>
    cases h : cksumOf s.csr.ckSel s.csr.crcIv (Memory.bytes s.buf 0 (s.len - 2)) with
    | none => simp [rxVerify_of_none h]
    | some c => simp [rxVerify_of_some h]

theorem rxVerify_ckfail_iff {cki : Bool} (hlen : 2 ≤ s.len) : (rxVerify s cki).2 = true ↔
    cki = true ∧ s.csr.ckSel = .sum ∧ s.len % 2 = 1 := by
  have hnone : cksumOf s.csr.ckSel s.csr.crcIv (Memory.bytes s.buf 0 (s.len - 2)) = none ↔
      s.csr.ckSel = .sum ∧ s.len % 2 = 1 := by
    rw [cksumOf_eq_none_iff, memory_bytes_length, show (s.len - 2) % 2 = s.len % 2 by omega]
  cases cki with
  | false => simp [rxVerify_false]
  | true =>
    rw [← hnone]
    cases h : cksumOf s.csr.ckSel s.csr.crcIv (Memory.bytes s.buf 0 (s.len - 2)) with
    | none => simp [rxVerify_of_none h]
    | some c => simp [rxVerify_of_some h]

/-- The three flags RXPROC can set, each where it was found (10_state.md R25, R201). -/
theorem received_event (s : State) : (received s).event =
    (s.event ||| (if (rxVerify s (ckiEff s)).1 then 0x02 else 0) |||
      (if seqGap s.rxSeq (hdrApid (Memory.read2 s.buf 0)) (hdrSeqCount (Memory.read2 s.buf 2))
        then 0x04 else 0) |||
      (if (rxVerify s (ckiEff s)).2 then 0x08 else 0)) := by
  rw [← setEvent_eq_or, ← setEvent_eq_or, ← setEvent_eq_or]
  rfl

/-- The answer's 32 bits lose nothing of the 6 flags (30_encoding.md R82). -/
theorem setWidth_setWidth_rxFlags (flags : BitVec 6) :
    (flags.setWidth 32).setWidth 64 = flags.setWidth 64 := by
  apply BitVec.eq_of_toNat_eq
  rw [BitVec.toNat_setWidth_of_le (by decide), BitVec.toNat_setWidth_of_le (by decide),
    BitVec.toNat_setWidth_of_le (by decide)]

end

/-- Settles O45: the drop is RXPROC's first test. -/
theorem rxprocDropsShortPackets : Obligations.RxprocDropsShortPackets :=
  fun _ h => exec_rxproc_of_lt h

/-- Settles O46: the invariant puts LEN above the floor of RXMIN, so that every read is in bounds; each
flag, field and register is then the one computed from the bytes. -/
theorem rxprocReportsThePacket : Obligations.RxprocReportsThePacket := by
  intro s hinv hmin
  obtain ⟨-, -, -, -, ⟨⟨hfloorMin, -⟩, -⟩, -⟩ := hinv
  have hfloor : s.params.rxminFloor ≤ s.len := hfloorMin.trans hmin
  have hlen : 2 ≤ s.len := by
    unfold Params.rxminFloor at hfloor
    omega
  exact ⟨answered _ (received s), (rxVerify s (ckiEff s)).1, seqGap s.rxSeq _ _, _, ckiEff s,
    (rxVerify s (ckiEff s)).2, _, _,
    toNat_hdrApid_packet s, toNat_hdrSeqCount_packet s,
    hdrShf_packet_iff s, ckiEff_iff s, rxVerify_ckfail_iff hlen, rxVerify_corrupt_iff, seqGap_iff,
    exec_rxproc_of_le hfloor hmin, rfl,
    toNat_packRxFlags _ _ _ _ _, toNat_packSeqId _ _, memory_read4_toNat s.buf _, rfl,
    congrArg some (setWidth_setWidth_rxFlags _), received_event s,
    seqGet_seqSet_cases s.rxSeq _ _⟩

end Sys2Proof.Machine

/-! The sequence tracker on transmission (45_tx_pipeline.md R223, R228, R229). -/

namespace Sys2Proof.Machine

section
variable {t : SeqTable} {first : SeqCount} {apid : Apid} {l : SeqCount}

/-- A valid entry is followed by its successor modulo 2^14 (R223). -/
theorem toNat_seqNextCount_of_some (h : seqGet t apid = some l) :
    (seqNextCount t first apid).toNat = (l.toNat + 1) % 16384 := by
  rw [seqNextCount, h]
  exact BitVec.toNat_add l 1

/-- An APID without an entry starts at TXSEQ_FIRST (R223). -/
theorem seqNextCount_of_none (h : seqGet t apid = none) : seqNextCount t first apid = first := by
  rw [seqNextCount, h]

end

theorem exec_seqnext (apid : Apid) (s : State) : exec (.seqnext apid) s =
    .next (answered ((seqNextCount s.txSeq s.params.txseqFirst apid).setWidth 32)
      { s with txSeq := seqSet s.txSeq apid (seqNextCount s.txSeq s.params.txseqFirst apid) }) :=
  respond_eq _ _

theorem exec_txseqget (apid : Apid) (s : State) :
    exec (.txseqget apid) s = .next (answered (packSeqEntry (seqGet s.txSeq apid)) s) :=
  respond_eq _ _

/-- Settles O44: the count is the one `seqNextCount` gives, and the table changes at one entry. -/
theorem seqnextAssignsTheNextCount : Obligations.SeqnextAssignsTheNextCount := by
  intro s apid
  refine ⟨⟨_, _, fun _ => toNat_seqNextCount_of_some, seqNextCount_of_none, exec_seqnext apid s, rfl,
    seqGet_seqSet_cases s.txSeq apid _⟩, fun l hl => ?valid, fun hnone => ?invalid⟩
  case valid => rw [exec_txseqget, hl, packSeqEntry_some]
  case invalid => rw [exec_txseqget, hnone]; rfl

end Sys2Proof.Machine

/-! What TXPROC answers (45_tx_pipeline.md R221, R222): its lengths, its refusals, and the state it leaves
on a packet that it does not refuse. -/

namespace Sys2Proof.Machine

/-- The model's lengths are those of R221 (a) to (c). -/
theorem txLengths_eq (s : State) : txLengths s = (txLen1 s, txLen2 s, txLen3 s) := by
  have hlen1 : (if PacketHasCki s then s.len + 2 else s.len) = txLen1 s := by
    simp only [txLen1, ckiEff_iff]
    split <;> rfl
  have hlen3 : (if s.csr.txCtl = 1 ∧ txLen2 s % 2 = 1 then txLen2 s + 1 else txLen2 s) =
      txLen3 s := by
    unfold txLen3
    split <;> rfl
  rw [← hlen3]
  unfold txLengths txLen2
  rw [hlen1]

/-- The packet passes the three tests of TXPROC (R221). -/
structure TxFits (s : State) : Prop where
  header : 6 ≤ s.len
  capacity : txLen3 s ≤ s.params.bufsz
  minimum : 7 ≤ txLen3 s

/-- The state TXPROC leaves on such a packet. -/
def transmitted (fine : Byte) (coarse : Word) (s : State) : State :=
  answered (packTxReturn (txSeqCount s) (txFlagsOf fine coarse s)) (txFinish fine coarse s)

section
variable (fine : Byte) (coarse : Word) {s : State}

theorem exec_txproc_of_short (h : s.len < 6) : exec (.txproc fine coarse) s = .next (failed 2 s) :=
  (if_pos h).trans (raise_eq _ _)

theorem exec_txproc_of_long (hheader : 6 ≤ s.len) (h : s.params.bufsz < txLen3 s) :
    exec (.txproc fine coarse) s = .next (failed 2 s) :=
  (if_neg (not_lt.2 hheader)).trans ((if_pos h).trans (raise_eq _ _))

theorem exec_txproc_of_tiny (hheader : 6 ≤ s.len) (hcapacity : txLen3 s ≤ s.params.bufsz)
    (h : txLen3 s < 7) : exec (.txproc fine coarse) s = .next (failed 3 s) :=
  (if_neg (not_lt.2 hheader)).trans ((if_neg (not_lt.2 hcapacity)).trans
    ((if_pos h).trans (raise_eq _ _)))

theorem exec_txproc_of_fits (h : TxFits s) :
    exec (.txproc fine coarse) s = .next (transmitted fine coarse s) :=
  (if_neg (not_lt.2 h.header)).trans ((if_neg (not_lt.2 h.capacity)).trans
    ((if_neg (not_lt.2 h.minimum)).trans (respond_eq _ _)))

end

/-- Settles O47: the three tests in their order. -/
theorem txprocRefusesUnfitPackets : Obligations.TxprocRefusesUnfitPackets := by
  intro s fine coarse
  rw [txLengths_eq]
  exact ⟨exec_txproc_of_short fine coarse, exec_txproc_of_long fine coarse,
    exec_txproc_of_tiny fine coarse⟩

/-- An answer OK means that the packet passed the three tests. -/
theorem exec_txproc_ok {fine : Byte} {coarse : Word} {s t : State} {w : PortWord}
    (hexec : exec (.txproc fine coarse) s = .next t) (hrsp : t.rsp = some w) (hok : errField w = 0) :
    TxFits s ∧ t = transmitted fine coarse s := by
  have hrefused {code : Nat} (hcode : errField (BitVec.ofNat 64 (code * 2 ^ 32)) ≠ 0) :
      exec (.txproc fine coarse) s ≠ .next (failed code s) := by
    intro hfailed
    cases hexec.symm.trans hfailed
    cases hrsp
    exact hcode hok
  have hheader : 6 ≤ s.len := not_lt.1 fun h =>
    hrefused (by decide) (exec_txproc_of_short fine coarse h)
  have hcapacity : txLen3 s ≤ s.params.bufsz := not_lt.1 fun h =>
    hrefused (by decide) (exec_txproc_of_long fine coarse hheader h)
  have hminimum : 7 ≤ txLen3 s := not_lt.1 fun h =>
    hrefused (by decide) (exec_txproc_of_tiny fine coarse hheader hcapacity h)
  have hfits : TxFits s := ⟨hheader, hcapacity, hminimum⟩
  cases hexec.symm.trans (exec_txproc_of_fits fine coarse hfits)
  exact ⟨hfits, rfl⟩

end Sys2Proof.Machine

/-! The bytes of the packet TXPROC leaves, step by step (45_tx_pipeline.md R221 (d) to (g)). -/

namespace Sys2Proof.Machine

theorem toNat_read_write (m : Memory) (a : Nat) (v : Byte) (b : Nat) :
    (Memory.read (Memory.write m a v) b).toNat =
      if b = a then v.toNat else (Memory.read m b).toNat := by
  rw [memory_read_write, apply_ite BitVec.toNat]

theorem toNat_read_write2 (m : Memory) (a : Nat) (v : Half) (b : Nat) :
    (Memory.read (Memory.write2 m a v) b).toNat =
      if b = a then v.toNat / 256 else if b = a + 1 then v.toNat % 256
      else (Memory.read m b).toNat := by
  have hv := v.isLt
  have hhigh : (v.extractLsb' 8 8).toNat = v.toNat / 256 := by
    rw [toNat_extractLsb'_eq_div_mod]
    omega
  have hlow : (v.extractLsb' 0 8).toNat = v.toNat % 256 := by
    rw [toNat_extractLsb'_eq_div_mod]
    omega
  rw [memory_read_write2, apply_ite BitVec.toNat, apply_ite BitVec.toNat, hhigh, hlow]

theorem toNat_read_write4 (m : Memory) (a : Nat) (v : Word) (b : Nat) :
    (Memory.read (Memory.write4 m a v) b).toNat =
      if a ≤ b ∧ b < a + 4 then v.toNat / 256 ^ (a + 3 - b) % 256 else (Memory.read m b).toNat := by
  split
  case isTrue hin =>
    obtain ⟨k, rfl⟩ := Nat.exists_eq_add_of_le hin.1
    have hk : k < 4 := by omega
    have hpow : 2 ^ (8 * (3 - k)) = 256 ^ (a + 3 - (a + k)) := by
      rw [Nat.pow_mul, Nat.add_sub_add_left]
    rw [memory_read_write4_inside m a v hk, toNat_extractLsb'_eq_div_mod, hpow]
    rfl
  case isFalse hout => rw [memory_read_write4_outside m a v (by omega)]

section
variable {s : State}

/-- After (a) to (d): added bytes are 0 and bytes 4 and 5 hold the length field. -/
theorem toNat_read_txSized (hfield : txLen3 s - 7 < 65536) (a : Nat) :
    (Memory.read (txSized s) a).toNat =
      if a = 4 then (txLen3 s - 7) / 256 else if a = 5 then (txLen3 s - 7) % 256
      else if a < s.len then byteAt s a else 0 := by
  rw [txSized, toNat_read_write2, BitVec.toNat_ofNat, Nat.mod_eq_of_lt hfield, memory_read_below,
    apply_ite BitVec.toNat]
  rfl

/-- The halfword of (e): the sequence flags as loaded, the count assigned. -/
theorem toNat_setSeqCount_txSized (hheader : 6 ≤ s.len) (hfield : txLen3 s - 7 < 65536)
    (n : SeqCount) : (setSeqCount n (Memory.read2 (txSized s) 2)).toNat =
      byteAt s 2 / 64 * 16384 + n.toNat := by
  have hb3 := byteAt_lt s 3
  have hword : (Memory.read2 (txSized s) 2).toNat = byteAt s 2 * 256 + byteAt s 3 := by
    rw [memory_read2_toNat, toNat_read_txSized hfield, toNat_read_txSized hfield]
    simp [show 2 < s.len by omega, show 3 < s.len by omega]
  rw [setSeqCount_eq, toNat_replaceField n _ (by decide), hword]
  omega

/-- After (e): bytes 2 and 3 hold the flags as loaded and the assigned count. -/
theorem toNat_read_txCounted (hheader : 6 ≤ s.len) (hfield : txLen3 s - 7 < 65536) (a : Nat) :
    (Memory.read (txCounted s) a).toNat =
      if a = 2 then byteAt s 2 / 64 * 64 + (txSeqCount s).toNat / 256
      else if a = 3 then (txSeqCount s).toNat % 256
      else (Memory.read (txSized s) a).toNat := by
  have hhigh (q n : Nat) : (q * 16384 + n) / 256 = q * 64 + n / 256 := by omega
  have hlow (q n : Nat) : (q * 16384 + n) % 256 = n % 256 := by omega
  rw [txCounted, toNat_read_write2, toNat_setSeqCount_txSized hheader hfield, hhigh, hlow]

/-- After (f): the bytes of R221 in the order in which the later step wins. -/
theorem toNat_read_txTimed (fine : Byte) (coarse : Word) (hheader : 6 ≤ s.len)
    (hfield : txLen3 s - 7 < 65536) (a : Nat) :
    (Memory.read (txTimed fine coarse s) a).toNat =
      txStampedByte s fine.toNat coarse.toNat (txSeqCount s).toNat (txLen3 s) (txTimeWritten s) a := by
  have hcounted := toNat_read_txCounted hheader hfield a
  rw [toNat_read_txSized hfield] at hcounted
  unfold txTimed txStampedByte
  cases txTimeWritten s with
  | false => simpa using hcounted
  | true => simp only [if_true, true_and, toNat_read_write, toNat_read_write4, hcounted]

variable (fine : Byte) (coarse : Word)

/-- After (g): where the checksum is written it takes the last two bytes. -/
theorem toNat_read_txPacket (hfits : TxFits s) (hfield : txLen3 s - 7 < 65536) (a : Nat) :
    (Memory.read (txPacket fine coarse s) a).toNat =
      if txCkWritten fine coarse s = true ∧ a = txLen3 s - 2 then
        (txCkValue fine coarse s).toNat / 256
      else if txCkWritten fine coarse s = true ∧ a = txLen3 s - 1 then
        (txCkValue fine coarse s).toNat % 256
      else txStampedByte s fine.toNat coarse.toNat (txSeqCount s).toNat (txLen3 s)
        (txTimeWritten s) a := by
  have hmin := hfits.minimum
  have hlast : txLen3 s - 2 + 1 = txLen3 s - 1 := by omega
  rw [← toNat_read_txTimed fine coarse hfits.header hfield]
  unfold txPacket
  cases txCkWritten fine coarse s with
  | false => simp
  | true => simp only [if_true, true_and, toNat_read_write2, hlast]

/-- The final checksum field is no part of what the checksum is taken over (R225). -/
theorem bytes_txPacket (fine : Byte) (coarse : Word) (s : State) :
    Memory.bytes (txPacket fine coarse s) 0 (txLen3 s - 2) =
      Memory.bytes (txTimed fine coarse s) 0 (txLen3 s - 2) := by
  refine memory_bytes_congr _ _ _ _ fun k hk => ?_
  unfold txPacket
  split
  · rw [memory_read_write2, if_neg (by omega), if_neg (by omega)]
  · rfl

end

end Sys2Proof.Machine

/-! The flags and registers TXPROC publishes, and its statements (45_tx_pipeline.md R221 to R227). -/

namespace Sys2Proof.Machine

theorem toNat_packTxFlags (cki cw cf shf tw tf minPad evenPad : Bool) :
    (packTxFlags cki cw cf shf tw tf minPad evenPad).toNat =
      cki.toNat + 2 * cw.toNat + 4 * cf.toNat + 8 * shf.toNat + 16 * tw.toNat + 32 * tf.toNat +
        64 * minPad.toNat + 128 * evenPad.toNat := by
  simp only [packTxFlags, toNat_append_eq_mul_add, BitVec.toNat_ofBool]
  omega

/-- The answer's count and flags as one number (R221, 30_encoding.md R82). -/
theorem packTxReturn_setWidth (seq : SeqCount) (flags : Byte) :
    (packTxReturn seq flags).setWidth 64 = BitVec.ofNat 64 (seq.toNat * 65536 + flags.toNat) := by
  have hval : (packTxReturn seq flags).toNat = seq.toNat * 65536 + flags.toNat := by
    simp only [packTxReturn, toNat_append_eq_mul_add, BitVec.toNat_ofNat]
    omega
  rw [← hval, BitVec.ofNat_toNat]

theorem mul_toNat_decide (k : Nat) (p : Prop) [Decidable p] :
    k * (decide p).toNat = if p then k else 0 := by
  split <;> simp [*]

section
variable (fine : Byte) (coarse : Word) {s : State}

theorem txTimeWritten_iff :
    txTimeWritten s = true ↔ txShf s = true ∧ s.params.shEnd ≤ txLen3 s := by
  rw [txTimeWritten, Bool.and_eq_true, decide_eq_true_iff]

theorem txTimeFails_iff :
    txTimeFails s = true ↔ txShf s = true ∧ txLen3 s < s.params.shEnd := by
  rw [txTimeFails, Bool.and_eq_true, Bool.not_eq_true', decide_eq_false_iff_not, not_le]

/-- Only the sum over a final packet of odd length has no value (R225). -/
theorem txCkFails_iff (hlen : 2 ≤ txLen3 s) : txCkFails fine coarse s = true ↔
    ckiEff s = true ∧ s.csr.ckSel = .sum ∧ txLen3 s % 2 = 1 := by
  rw [txCkFails, Bool.and_eq_true, Option.isNone_iff_eq_none, txChecksum, cksumOf_eq_none_iff,
    memory_bytes_length, show (txLen3 s - 2) % 2 = txLen3 s % 2 by omega]

/-- An indicated checksum is written or has failed (R221 (g)). -/
theorem txCkWritten_iff : txCkWritten fine coarse s = true ↔
    ckiEff s = true ∧ txCkFails fine coarse s = false := by
  unfold txCkWritten txCkFails
  cases ckiEff s <;> cases txChecksum fine coarse s <;> simp

/-- The checksum written is that of the final packet before its last two bytes (R225). -/
theorem cksumOf_txPacket (h : txCkWritten fine coarse s = true) :
    cksumOf s.csr.ckSel s.csr.crcIv (Memory.bytes (txPacket fine coarse s) 0 (txLen3 s - 2)) =
      some (txCkValue fine coarse s) := by
  obtain ⟨-, hsome⟩ := Bool.and_eq_true_iff.1 h
  obtain ⟨c, hc⟩ := Option.isSome_iff_exists.1 hsome
  calc _ = txChecksum fine coarse s := by rw [bytes_txPacket, txChecksum]
    _ = some (txCkValue fine coarse s) := by rw [txCkValue, if_pos h, hc, Option.getD_some]

theorem txCkValue_of_not_written (h : txCkWritten fine coarse s = false) :
    txCkValue fine coarse s = 0 := by
  rw [txCkValue, if_neg (by rw [h]; decide)]

theorem toNat_txFlagsOf : (txFlagsOf fine coarse s).toNat =
    (ckiEff s).toNat + 2 * (txCkWritten fine coarse s).toNat + 4 * (txCkFails fine coarse s).toNat +
      8 * (txShf s).toNat + 16 * (txTimeWritten s).toNat + 32 * (txTimeFails s).toNat +
      (if txLen1 s < txLen2 s then 64 else 0) + (if txLen2 s < txLen3 s then 128 else 0) := by
  rw [txFlagsOf, toNat_packTxFlags, mul_toNat_decide, mul_toNat_decide]

theorem transmitted_event : (transmitted fine coarse s).event =
    (s.event ||| (if txCkFails fine coarse s then 0x08 else 0) |||
      (if txTimeFails s then 0x10 else 0)) := by
  rw [← setEvent_eq_or, ← setEvent_eq_or]
  rfl

/-- The length field of a final packet within a legal BUFSZ loses nothing (00_scope.md R5). -/
theorem lengthField_lt (hlegal : s.params.Legal) (hfits : TxFits s) : txLen3 s - 7 < 65536 := by
  obtain ⟨⟨-, hcap⟩, -⟩ := hlegal
  have hlen := hfits.capacity
  omega

end

/-- Settles O48: the invariant is used for the legal build alone, in which the length field is exact;
each byte, flag and register is then the one computed by the steps of R221. -/
theorem txprocStampsThePacket : Obligations.TxprocStampsThePacket := by
  intro s fine coarse ⟨hlegal, _⟩
  rw [txLengths_eq]
  intro hheader hcapacity hminimum
  have hfits : TxFits s := ⟨hheader, hcapacity, hminimum⟩
  exact ⟨transmitted fine coarse s, ckiEff s, txCkWritten fine coarse s, txCkFails fine coarse s,
    txShf s, txTimeWritten s, txTimeFails s, txApid s, txSeqCount s, txCkValue fine coarse s,
    toNat_hdrApid_packet s, hdrShf_packet_iff s, ckiEff_iff s,
    fun _ => toNat_seqNextCount_of_some, seqNextCount_of_none,
    txTimeWritten_iff, txTimeFails_iff, txCkFails_iff fine coarse (le_trans (by decide) hfits.minimum),
    txCkWritten_iff fine coarse, cksumOf_txPacket fine coarse, txCkValue_of_not_written fine coarse,
    exec_txproc_of_fits fine coarse hfits, rfl, rfl,
    fun a _ => toNat_read_txPacket fine coarse hfits (lengthField_lt hlegal hfits) a,
    toNat_txFlagsOf fine coarse, rfl, rfl, rfl,
    congrArg some (packTxReturn_setWidth _ _), transmitted_event fine coarse,
    seqGet_seqSet_cases s.txSeq _ _⟩

section
variable (fine : Byte) (coarse : Word) {s : State}

/-- A packet with an indicator gets a slot for the checksum (R221 (a)). -/
theorem len_add_two_le_txLen3 (h : ckiEff s = true) : s.len + 2 ≤ txLen3 s := by
  unfold txLen3 txLen2 txLen1
  rw [h, if_pos rfl]
  omega

/-- The time fields and the checksum leave the primary header as steps (d) and (e) left it: a legal build
has the time fields behind it (00_scope.md R5), and only a packet with an indicator behind it (R146) has
a checksum. -/
theorem byteAt_transmitted_of_lt_six (hlegal : s.params.Legal) (hfits : TxFits s) {a : Nat}
    (ha : a < 6) : byteAt (transmitted fine coarse s) a =
      if a = 2 then byteAt s 2 / 64 * 64 + (txSeqCount s).toNat / 256
      else if a = 3 then (txSeqCount s).toNat % 256
      else if a = 4 then (txLen3 s - 7) / 256 else if a = 5 then (txLen3 s - 7) % 256
      else byteAt s a := by
  have hfield := lengthField_lt hlegal hfits
  obtain ⟨-, ⟨hcoarse, -⟩, ⟨hfine, -⟩, ⟨hcki, -⟩, -⟩ := hlegal
  have hbefore {k : Nat} (hk : k ≤ 2) : ¬(txCkWritten fine coarse s = true ∧ a = txLen3 s - k) := by
    rintro ⟨hck, hpos⟩
    have heff : ckiEff s = true := ((txCkWritten_iff fine coarse).1 hck).1
    obtain ⟨-, hinside, -⟩ := (ckiEff_iff s).1 heff
    have hslot := len_add_two_le_txLen3 heff
    omega
  calc byteAt (transmitted fine coarse s) a
      = (Memory.read (txPacket fine coarse s) a).toNat := rfl
    _ = txStampedByte s fine.toNat coarse.toNat (txSeqCount s).toNat (txLen3 s)
          (txTimeWritten s) a := by
      rw [toNat_read_txPacket fine coarse hfits hfield, if_neg (hbefore le_rfl),
        if_neg (hbefore (by decide))]
    _ = _ := by
      rw [txStampedByte, if_neg (by omega), if_neg (by omega), if_pos (ha.trans_le hfits.header)]

theorem packetApid_transmitted (hlegal : s.params.Legal) (hfits : TxFits s) :
    packetApid (transmitted fine coarse s) = packetApid s := by
  rw [packetApid, byteAt_transmitted_of_lt_six fine coarse hlegal hfits (by decide),
    byteAt_transmitted_of_lt_six fine coarse hlegal hfits (by decide)]
  rfl

theorem packetSeq_transmitted (hlegal : s.params.Legal) (hfits : TxFits s) :
    packetSeq (transmitted fine coarse s) = (txSeqCount s).toNat := by
  have hcount := (txSeqCount s).isLt
  rw [packetSeq, byteAt_transmitted_of_lt_six fine coarse hlegal hfits (by decide),
    byteAt_transmitted_of_lt_six fine coarse hlegal hfits (by decide), if_pos rfl,
    if_neg (by decide), if_pos rfl]
  omega

/-- Without a secondary header no indicator counts (R146). -/
theorem ckiEff_of_no_shf (h : ¬ PacketHasShf s) : ckiEff s = false :=
  Bool.eq_false_iff.2 fun hcki => h ((ckiEff_iff s).1 hcki).1

/-- Without a secondary header neither time nor checksum is written (R224, R225). -/
theorem byteAt_transmitted_of_no_shf (hlegal : s.params.Legal) (hfits : TxFits s)
    (hshf : ¬ PacketHasShf s) (a : Nat) : byteAt (transmitted fine coarse s) a =
      txStampedByte s fine.toNat coarse.toNat (txSeqCount s).toNat (txLen3 s) false a := by
  have htime : txTimeWritten s = false :=
    Bool.eq_false_iff.2 fun h => hshf ((hdrShf_packet_iff s).1 (txTimeWritten_iff.1 h).1)
  have hck : txCkWritten fine coarse s = false := by
    rw [txCkWritten, ckiEff_of_no_shf hshf, Bool.false_and]
  calc byteAt (transmitted fine coarse s) a
      = (Memory.read (txPacket fine coarse s) a).toNat := rfl
    _ = _ := by
      rw [toNat_read_txPacket fine coarse hfits (lengthField_lt hlegal hfits), htime, hck]
      simp only [Bool.false_eq_true, false_and, if_false]

/-- A packet without a checksum slot, at least TXMIN long and of even length where EVENPAD asks for it, is
not lengthened (R221 (a) to (c)). -/
theorem txLen3_of_no_padding (hcki : ckiEff s = false) (hmin : s.csr.txMin.toNat ≤ s.len)
    (heven : s.csr.txCtl = 0 ∨ s.len % 2 = 0) : txLen3 s = s.len := by
  have hlen1 : txLen1 s = s.len := by
    rw [txLen1, hcki]
    rfl
  have hlen2 : txLen2 s = s.len := by rw [txLen2, hlen1, max_eq_left hmin]
  have hno : ¬(s.csr.txCtl = 1 ∧ s.len % 2 = 1) := by
    rintro ⟨hctl, hodd⟩
    obtain hctl0 | heven := heven
    · exact absurd (hctl0.symm.trans hctl) (by decide)
    · omega
  rw [txLen3, hlen2, if_neg hno]
  rfl

/-- The checksum field holds the checksum where it is written (R225). -/
theorem read2_txPacket (h : txCkWritten fine coarse s = true) :
    Memory.read2 (txPacket fine coarse s) (txLen3 s - 2) = txCkValue fine coarse s := by
  rw [txPacket, if_pos h, memory_read2_write2]

/-- RXPROC computes the checksum that TXPROC wrote, or, where the stamped time hid the indicator, none
(44_rx_pipeline.md R205). -/
theorem rxVerify_transmitted (h : txCkWritten fine coarse s = true) (cki : Bool) :
    rxVerify (transmitted fine coarse s) cki = (false, false) := by
  cases cki with
  | false => exact rxVerify_false
  | true =>
    calc rxVerify (transmitted fine coarse s) true
        = (txCkValue fine coarse s != Memory.read2 (txPacket fine coarse s) (txLen3 s - 2), false) :=
          rxVerify_of_some (cksumOf_txPacket fine coarse h)
      _ = (false, false) := by rw [read2_txPacket fine coarse h, bne_self_eq_false]

end

theorem getLsbD_packTxFlags_ckWritten (cki cw cf shf tw tf minPad evenPad : Bool) :
    (packTxFlags cki cw cf shf tw tf minPad evenPad).getLsbD 1 = cw := by
  simp only [packTxFlags, BitVec.getLsbD_append]
  simp

theorem getLsbD_packRxFlags_corrupt (corrupt gap shf cki ckfail : Bool) :
    (packRxFlags corrupt gap shf cki ckfail).getLsbD 1 = corrupt := by
  simp only [packRxFlags, BitVec.getLsbD_append]
  simp

theorem getLsbD_packRxFlags_ckFail (corrupt gap shf cki ckfail : Bool) :
    (packRxFlags corrupt gap shf cki ckfail).getLsbD 5 = ckfail := by
  simp only [packRxFlags, BitVec.getLsbD_append]
  simp

/-- Settles O49: without a secondary header nothing but the count and the length field is written, and the
length field was right already. -/
theorem txprocKeepsPlainCommands : Obligations.TxprocKeepsPlainCommands := by
  intro s fine coarse hlegal hcapacity hlength hshf htxMin heven hfield
  have hlen : txLen3 s = s.len := txLen3_of_no_padding (ckiEff_of_no_shf hshf) htxMin heven
  have hfits : TxFits s := ⟨by omega, by omega, by omega⟩
  refine ⟨_, exec_txproc_of_fits fine coarse hfits, hlen, fun a hin h2 h3 => ?kept, ?flags,
    packetSeq_transmitted fine coarse hlegal hfits⟩
  case kept =>
    have hb5 := byteAt_lt s 5
    rw [byteAt_transmitted_of_no_shf fine coarse hlegal hfits hshf, hlen, txStampedByte,
      if_neg (by simp), if_neg (by simp), if_neg h2, if_neg h3, if_pos hin, ← hfield]
    split_ifs with h4 h5
    · subst h4; omega
    · subst h5; omega
    · rfl
  case flags =>
    have hcount := (txSeqCount s).isLt
    rw [byteAt_transmitted_of_lt_six fine coarse hlegal hfits (by decide), if_pos rfl]
    omega

/-- Settles O50: the checksum RXPROC computes is the one in the last two bytes, and the stamped header
carries the APID and the count that TXPROC published. -/
theorem stampedCommandIsReceivedIntact : Obligations.StampedCommandIsReceivedIntact := by
  intro s t fine coarse w hinv hexec hrsp hok hwritten hmin
  obtain ⟨-, -, -, -, ⟨⟨hfloor, -⟩, -⟩, -⟩ := exec_keeps_stateInv hinv hexec
  obtain ⟨hfits, rfl⟩ := exec_txproc_ok hexec hrsp hok
  obtain ⟨hlegal, -⟩ := hinv
  have hck : txCkWritten fine coarse s = true :=
    (getLsbD_packTxFlags_ckWritten _ _ _ _ _ _ _ _).symm.trans hwritten
  have hverify := rxVerify_transmitted fine coarse hck (ckiEff (transmitted fine coarse s))
  have hapid : packetApid (transmitted fine coarse s) = (txApid s).toNat :=
    (packetApid_transmitted fine coarse hlegal hfits).trans (toNat_hdrApid_packet s).symm
  refine ⟨_, exec_rxproc_of_le (hfloor.trans hmin) hmin, ?corrupt, ?ckfail, ?seqId⟩
  case corrupt => exact (getLsbD_packRxFlags_corrupt _ _ _ _ _).trans (congrArg Prod.fst hverify)
  case ckfail => exact (getLsbD_packRxFlags_ckFail _ _ _ _ _).trans (congrArg Prod.snd hverify)
  case seqId =>
    calc (packSeqId _ _).toNat
        = packetApid (transmitted fine coarse s) * 65536 + packetSeq (transmitted fine coarse s) := by
          rw [toNat_packSeqId, toNat_hdrApid_packet, toNat_hdrSeqCount_packet]
      _ = (txApid s).toNat * 65536 + (txSeqCount s).toNat := by
          rw [hapid, packetSeq_transmitted fine coarse hlegal hfits]

end Sys2Proof.Machine

/-! The system commands (46_buffer_system.md R240 to R243): which numbers name a register, what CSRR and
CSRW answer for each, and the state both resets leave. -/

namespace Sys2Proof.Machine

/-- The number of a control register (10_state.md R30), the inverse of `csrOfNum`. -/
def csrNumber (r : CsrName) : BitVec 24 :=
  match r with
  | .ckSel => 0x00
  | .crcIv => 0x01
  | .rxMin => 0x02
  | .txMin => 0x03
  | .txCtl => 0x04
  | .fMode => 0x08
  | .pktSize => 0x09
  | .maxLen => 0x0A
  | .lfOff => 0x0B
  | .lfLen => 0x0C
  | .lfOrd => 0x0D
  | .lfAdj => 0x0E
  | .strip => 0x0F
  | .fcfgSet => 0x10
  | .fState => 0x11
  | .fPos => 0x12
  | .fTot => 0x13
  | .fLen => 0x14
  | .event => 0x18
  | .rxFlags => 0x20
  | .rxSeqId => 0x21
  | .rxCoarse => 0x22
  | .rxFine => 0x23
  | .txFlags => 0x28
  | .txSeq => 0x29
  | .txCk => 0x2A
  | .txApid => 0x2B

@[simp] theorem csrOfNum_csrNumber (r : CsrName) : csrOfNum (csrNumber r) = some r := by
  cases r <;> rfl

theorem csrOfNum_eq_some_iff {n : BitVec 24} {r : CsrName} :
    csrOfNum n = some r ↔ n = csrNumber r := by
  refine ⟨fun hnum => ?_, fun h => h ▸ csrOfNum_csrNumber r⟩
  unfold csrOfNum at hnum
  split at hnum <;> cases hnum
  all_goals exact BitVec.eq_of_toNat_eq ‹_›

/-- A read-only register has no legal value on write (R30). -/
theorem csrReadOnly_of_csrLegal {p : Params} {r : CsrName} {v : Word}
    (h : csrLegal p r v = true) : csrReadOnly r = false := by
  cases r with
  | fcfgSet | fState | fPos | fTot | fLen | rxFlags | rxSeqId | rxCoarse | rxFine
  | txFlags | txSeq | txCk | txApid => cases h
  | _ => rfl

theorem csrLegal_rxMin_iff {p : Params} {v : Word} :
    csrLegal p .rxMin v = true ↔ p.rxminFloor ≤ v.toNat ∧ v.toNat ≤ p.bufsz := by
  simp [csrLegal]

theorem csrLegal_lfLen_iff {p : Params} {v : Word} :
    csrLegal p .lfLen v = true ↔ 1 ≤ v.toNat ∧ v.toNat ≤ 4 := by
  simp [csrLegal]

section
variable {s : State} {v : Word}

/-! ### What CSRR and CSRW answer -/

theorem exec_csrr_of_csrRead (r : CsrName) (hread : csrRead s r = v) :
    exec (.csrr (csrNumber r)) s = .next (answered v s) :=
  hread ▸ execCsrr_of_num (csrOfNum_csrNumber r) s

theorem exec_csrw_of_csrWrite {t : State} (r : CsrName) (hwrite : csrWrite s r v = .ok t) :
    exec (.csrw (csrNumber r) v) s = .next (answered 0 t) := by
  calc exec (.csrw (csrNumber r) v) s
      = finishWrite (csrWrite s r v) s := execCsrw_of_num (csrOfNum_csrNumber r) v s
    _ = .next (answered 0 t) := by rw [hwrite, finishWrite_ok]

/-- A legal value is stored; EVENT alone is not a register that stores what is written (R31). -/
theorem exec_csrw_of_legal (r : CsrName) (hr : r ≠ .event) (h : csrLegal s.params r v = true) :
    exec (.csrw (csrNumber r) v) s =
      .next (answered 0 { s with csr := csrStore s.csr r v }) := by
  apply exec_csrw_of_csrWrite
  simp [csrWrite, csrReadOnly_of_csrLegal h, hr, h]

/-- Every value is legal for EVENT, whose written ones are cleared (R31 (5)). -/
theorem exec_csrw_event :
    exec (.csrw 0x18 v) s = .next (answered 0 { s with event := clearEvent v s.event }) :=
  exec_csrw_of_csrWrite .event rfl

/-- A value outside the legal ones of a writable register is E_CONFIG (R243). -/
theorem exec_csrw_of_illegal (r : CsrName) (hrw : csrReadOnly r = false)
    (h : csrLegal s.params r v = false) : exec (.csrw (csrNumber r) v) s = .next (failed 4 s) := by
  have hr : r ≠ .event := by
    rintro rfl
    cases h
  have hwrite : csrWrite s r v = .error .config := by simp [csrWrite, hrw, hr, h]
  calc exec (.csrw (csrNumber r) v) s
      = finishWrite (csrWrite s r v) s := execCsrw_of_num (csrOfNum_csrNumber r) v s
    _ = finishWrite (.error .config) s := by rw [hwrite]
    _ = .next (failed 4 s) := finishWrite_error .config s

/-- A number that names no writable register is E_ILLEGAL (R243). -/
theorem exec_csrw_of_not_writable {n : BitVec 24}
    (h : ∀ r, csrReadOnly r = false → n ≠ csrNumber r) :
    exec (.csrw n v) s = .next (failed 1 s) := by
  obtain ⟨-, -, hunassigned, hreadOnly⟩ := illegalCommandsAnswerIllegal s
  cases hnum : csrOfNum n with
  | none => exact hunassigned n v hnum
  | some r =>
    refine hreadOnly n r v hnum ?_
    cases hro : csrReadOnly r with
    | true => rfl
    | false => exact absurd (csrOfNum_eq_some_iff.1 hnum) (h r hro)

end

/-! ### The codes a write stores -/

theorem eq_toNat_of_ofNat_eq {k : Nat} {v : Word} (hk : k < 2 ^ 32) (h : BitVec.ofNat 32 k = v) :
    k = v.toNat := by
  rw [← h, BitVec.toNat_ofNat, Nat.mod_eq_of_lt hk]

theorem ckselCode_ckselOfCode_eq_toNat {v : Word} (hv : v.toNat ≤ 2) :
    ckselCode (ckselOfCode v) = v.toNat :=
  eq_toNat_of_ofNat_eq (by cases ckselOfCode v <;> decide) (ckselCode_ckselOfCode hv)

theorem fmodeCode_fmodeOfCode_eq_toNat {v : Word} (hv : v.toNat ≤ 3) :
    fmodeCode (fmodeOfCode v) = v.toNat :=
  eq_toNat_of_ofNat_eq (by cases fmodeOfCode v <;> decide) (fmodeCode_fmodeOfCode hv)

/-- Settles O11, register by register: a value passes the register's test or it does not. -/
theorem csrwStoresLegalValuesOnly : Obligations.CsrwStoresLegalValuesOnly := by
  intro s v
  refine ⟨fun h => ⟨_, ckselCode_ckselOfCode_eq_toNat h, ?ckSel⟩, fun h => ?ckSelRefused,
    fun h => ?crcIv, fun h => ?crcIvRefused, fun hfloor hcap => ?rxMin, fun h => ?rxMinRefused,
    fun h => ?txMin, fun h => ?txCtl, fun h => ?txCtlRefused,
    fun h => ⟨_, fmodeCode_fmodeOfCode_eq_toNat h, ?fMode⟩, fun h => ?fModeRefused,
    fun h => ?pktSize, fun h => ?maxLen, fun h => ?lfOff, fun h n hn => ?aboveCapacity,
    fun hpos hmax => ?lfLen, fun h => ?lfLenRefused, fun h => ?lfOrd, fun h => ?lfOrdRefused,
    ?lfAdj, ?strip, exec_csrw_event, fun n hn => ?notWritable⟩
  case ckSel => exact exec_csrw_of_legal .ckSel (by decide) (decide_eq_true h)
  case ckSelRefused => exact exec_csrw_of_illegal .ckSel rfl (decide_eq_false h.not_ge)
  case crcIv => exact exec_csrw_of_legal .crcIv (by decide) (decide_eq_true h)
  case crcIvRefused => exact exec_csrw_of_illegal .crcIv rfl (decide_eq_false h.not_ge)
  case rxMin =>
    exact exec_csrw_of_legal .rxMin (by decide) (csrLegal_rxMin_iff.2 ⟨hfloor, hcap⟩)
  case rxMinRefused =>
    exact exec_csrw_of_illegal .rxMin rfl (Bool.eq_false_iff.2 (csrLegal_rxMin_iff.not.2 (by omega)))
  case txMin => exact exec_csrw_of_legal .txMin (by decide) (decide_eq_true h)
  case txCtl => exact exec_csrw_of_legal .txCtl (by decide) (decide_eq_true h)
  case txCtlRefused => exact exec_csrw_of_illegal .txCtl rfl (decide_eq_false h.not_ge)
  case fMode => exact exec_csrw_of_legal .fMode (by decide) (decide_eq_true h)
  case fModeRefused => exact exec_csrw_of_illegal .fMode rfl (decide_eq_false h.not_ge)
  case pktSize => exact exec_csrw_of_legal .pktSize (by decide) (decide_eq_true h)
  case maxLen => exact exec_csrw_of_legal .maxLen (by decide) (decide_eq_true h)
  case lfOff => exact exec_csrw_of_legal .lfOff (by decide) (decide_eq_true h)
  case aboveCapacity =>
    simp only [List.mem_cons, List.not_mem_nil, or_false] at hn
    obtain rfl | rfl | rfl | rfl := hn
    · exact exec_csrw_of_illegal .txMin rfl (decide_eq_false h.not_ge)
    · exact exec_csrw_of_illegal .pktSize rfl (decide_eq_false h.not_ge)
    · exact exec_csrw_of_illegal .maxLen rfl (decide_eq_false h.not_ge)
    · exact exec_csrw_of_illegal .lfOff rfl (decide_eq_false h.not_ge)
  case lfLen => exact exec_csrw_of_legal .lfLen (by decide) (csrLegal_lfLen_iff.2 ⟨hpos, hmax⟩)
  case lfLenRefused =>
    exact exec_csrw_of_illegal .lfLen rfl (Bool.eq_false_iff.2 (csrLegal_lfLen_iff.not.2 (by omega)))
  case lfOrd => exact exec_csrw_of_legal .lfOrd (by decide) (decide_eq_true h)
  case lfOrdRefused => exact exec_csrw_of_illegal .lfOrd rfl (decide_eq_false h.not_ge)
  case lfAdj => exact exec_csrw_of_legal .lfAdj (by decide) rfl
  case strip => exact exec_csrw_of_legal .strip (by decide) rfl
  case notWritable =>
    refine exec_csrw_of_not_writable fun r hrw hnum => hn ?_
    subst hnum
    revert hrw
    cases r <;> decide

/-- Settles O10, register by register; the codes of CKSEL, FMODE and FSTATE value by value. -/
theorem csrrReadsEachRegister : Obligations.CsrrReadsEachRegister := by
  intro s
  refine ⟨exec_csrr_of_csrRead .ckSel ?ckSel, exec_csrr_of_csrRead .crcIv rfl,
    exec_csrr_of_csrRead .rxMin rfl, exec_csrr_of_csrRead .txMin rfl,
    exec_csrr_of_csrRead .txCtl rfl, exec_csrr_of_csrRead .fMode ?fMode,
    exec_csrr_of_csrRead .pktSize rfl, exec_csrr_of_csrRead .maxLen rfl,
    exec_csrr_of_csrRead .lfOff rfl, exec_csrr_of_csrRead .lfLen rfl,
    exec_csrr_of_csrRead .lfOrd rfl, exec_csrr_of_csrRead .lfAdj rfl,
    exec_csrr_of_csrRead .strip rfl, exec_csrr_of_csrRead .fcfgSet rfl,
    exec_csrr_of_csrRead .fState ?fState, exec_csrr_of_csrRead .fPos rfl,
    exec_csrr_of_csrRead .fTot rfl, exec_csrr_of_csrRead .fLen rfl,
    exec_csrr_of_csrRead .event rfl, exec_csrr_of_csrRead .rxFlags rfl,
    exec_csrr_of_csrRead .rxSeqId rfl, exec_csrr_of_csrRead .rxCoarse rfl,
    exec_csrr_of_csrRead .rxFine rfl, exec_csrr_of_csrRead .txFlags rfl,
    exec_csrr_of_csrRead .txSeq rfl, exec_csrr_of_csrRead .txCk rfl,
    exec_csrr_of_csrRead .txApid rfl, fun n hn => ?noRegister⟩
  case ckSel =>
    show BitVec.ofNat 32 (ckselCode s.csr.ckSel) = _
    cases s.csr.ckSel <;> rfl
  case fMode =>
    show BitVec.ofNat 32 (fmodeCode s.csr.fMode) = _
    cases s.csr.fMode <;> rfl
  case fState =>
    show BitVec.ofNat 32 (fstateCode s.fr.fst) = _
    cases s.fr.fst <;> rfl
  case noRegister =>
    obtain ⟨-, hunassigned, -⟩ := illegalCommandsAnswerIllegal s
    refine hunassigned n (Option.eq_none_iff_forall_ne_some.2 fun r hnum => hn ?_)
    rw [csrOfNum_eq_some_iff.1 hnum]
    cases r <;> decide

/-! ### NOP and the two resets -/

/-- Settles O9: NOP responds with 0 on the state as it is. -/
theorem nopAnswersZero : Obligations.NopAnswersZero := respond_eq 0

/-- The reset state is the one R52 lists, but for what is no state of the block (logs 2 and 13). -/
theorem resetValues_resetState (s : State) : ResetValues s (resetState s) :=
  ⟨rfl, rfl, rfl, rfl, rfl, rfl, rfl, rfl, fun _ => rfl, fun _ => rfl, rfl, rfl, rfl, rfl⟩

/-- A response is no part of what R52 lists. -/
theorem resetValues_answered {s t : State} (v : Word) (h : ResetValues s t) :
    ResetValues s (answered v t) := h

/-- A sample with `rst` = 1 asks for a reset, whatever command it presents (log 3). -/
theorem portRequest_of_rst {s : State} {p : PortSample} {rest : List PortSample}
    (hport : s.port = p :: rest) (hrst : p.rst = true) : portRequest s = .reset := by
  simp [portRequest, hport, hrst]

/-- Settles O8: both resets leave `resetState`, SRST of the state it finds and `rst` of the state with
its sample taken. -/
theorem resetAndSoftResetLeaveResetValues : Obligations.ResetAndSoftResetLeaveResetValues := by
  refine fun s => ⟨⟨answered 0 (resetState s), respond_eq 0 _,
    resetValues_answered 0 (resetValues_resetState s), rfl⟩, fun p rest hport hrst => ?rst⟩
  case rst =>
    refine ⟨resetState { s with port := rest }, ?step, resetValues_resetState _, rfl⟩
    rw [step_of_reset (portRequest_of_rst hport hrst), portTaken_of_cons hport, portReset]

end Sys2Proof.Machine

/-! The buffer commands (46_buffer_system.md R244 to R248). -/

namespace Sys2Proof.Machine

theorem execSetlen_of_lt {n : Word} {s : State} (h : s.params.bufsz < n.toNat) :
    execSetlen n s = .next (failed 2 s) := by
  rw [execSetlen, if_pos h]
  exact raise_eq .bounds s

theorem execAppb_of_le {byte : Byte} {s : State} (h : s.params.bufsz ≤ s.len) :
    execAppb byte s = .next (failed 2 s) := by
  rw [execAppb, if_pos h]
  exact raise_eq .bounds s

/-- Below the new length a byte of the old packet is kept, any other is 0 (R244). -/
theorem read_setLength (s : State) {n a : Nat} (ha : a < n) :
    Memory.read (setLength s n).buf a = if a < s.len then Memory.read s.buf a else 0 := by
  simp only [setLength_buf, memory_read_below, lt_min_iff, ha, and_true]

/-- Settles O13: the capacity test, then the bytes of the resized packet. -/
theorem setlenCutsOrZeroFills : Obligations.SetlenCutsOrZeroFills := by
  refine fun s n => ⟨fun hcap => ⟨answered 0 (setLength s n.toNat), execSetlen_of_le hcap, rfl, rfl,
    fun a han hold => ?kept, fun a han hnew => ?added⟩, execSetlen_of_lt⟩
  case kept => rw [answered_buf, read_setLength s han, if_pos hold]
  case added => rw [answered_buf, read_setLength s han, if_neg hnew.not_gt]

/-- Settles O14: RDLEN reads the length, RDB a byte that is in the packet or not. -/
theorem rdlenAndRdbReadOnly : Obligations.RdlenAndRdbReadOnly := by
  refine fun s => ⟨respond_eq _ s, fun off => ⟨fun hin => ?inside, getByte_of_le⟩⟩
  case inside =>
    rw [← BitVec.ofNat_toNat]
    exact getByte_of_lt hin (BitVec.ofNat_toNat 32 _).symm

/-- Settles O15: the store of one byte at an offset that is in the packet or not. -/
theorem wrbStoresOneByte : Obligations.WrbStoresOneByte := by
  refine fun s off byte => ⟨fun hin => ?inside, fun hout => ?outside⟩
  case inside =>
    obtain ⟨t, hexec, hstore⟩ := finishWrite_memWrite1 byte hin
    exact ⟨t, hexec, hstore.frame, hstore.read⟩
  case outside => exact finishWrite_of_bounds (memWrite1_error byte (Nat.lt_succ_of_le hout))

/-- Settles O16: the capacity test, then the byte stored at the old length. -/
theorem appbAppendsOneByte : Obligations.AppbAppendsOneByte := fun s byte =>
  ⟨fun hcap => ⟨appended byte s, execAppb_of_lt hcap, rfl, rfl,
    memory_read_write s.buf s.len byte⟩, execAppb_of_le⟩

end Sys2Proof.Machine

/-! What a command leaves where it answers an error (60_exceptions.md R261 to R263), as one relation beside
`CommandEffect`, and that every command's answer is a value or one of these errors. -/

namespace Sys2Proof.Machine

/-- The codes with which a command refuses before it has changed anything. All that R261 lists, but for
the three commands whose other errors change the framer (R263). -/
def refusalCodes (i : Instr) : List Nat :=
  match i with
  | .finit => []
  | .fpush _ | .feof => [8]
  | _ => mayRaise i

/-- `i`, run from `s`, can raise `e` and leave `u` but for the response and EVENT.ERR. -/
inductive ErrorEffect (s : State) : Instr → ErrCode → State → Prop
  | refused {i : Instr} {e : ErrCode} (hcode : (errCode e).toNat ∈ refusalCodes i) :
      ErrorEffect s i e s
  /-- FINIT whose construction check fails (43_framer.md R162). -/
  | badConfig : ErrorEffect s .finit .config { s with fr := framerOff s.fr }
  /-- FPUSH whose byte completes a header with a bad length (R163). -/
  | badHeader {byte : Byte} {e : ErrCode} (hcode : e = .badlen ∨ e = .toolong) :
      ErrorEffect s (.fpush byte) e { s with fr := { framerConsume byte s.fr with fst := .fault } }
  /-- FEOF in the middle of a packet (R165). -/
  | cutPacket : ErrorEffect s .feof .eof { s with fr := framerOff s.fr }
  /-- RXPROC of a packet that RXMIN lets through and that lacks a field it reads (44_rx_pipeline.md
  R201): no state of the invariant has one (log 11). -/
  | missingField {e : ErrCode} (hmin : s.csr.rxMin.toNat ≤ s.len) (hreads : rxReads s = .error e) :
      ErrorEffect s .rxproc e s

/-- `r` is a single response: OK, or an error as `ErrorEffect` has it for `i` run from `s`. -/
def ErrsOnly (i : Instr) (s : State) (r : Result) : Prop :=
  (∃ v u, r = .next (answered v u)) ∨
    ∃ e u, ErrorEffect s i e u ∧ r = .next (failed (errCode e).toNat u)

/-- `r` raises no code but E_BOUNDS. -/
def BoundsOnly {α : Type} (r : Except ErrCode α) : Prop := ∀ e, r = .error e → e = .bounds

section
variable {α β : Type} {s : State}

/-- An access to BUF is in bounds or E_BOUNDS (20_memory.md R63). -/
theorem boundsOnly_of_access {r : Except ErrCode α} {x : α} {k : Nat} (hok : k ≤ s.len → r = .ok x)
    (herror : s.len < k → r = .error .bounds) : BoundsOnly r := by
  intro e he
  obtain hout | hin := Nat.lt_or_ge s.len k
  · cases he.symm.trans (herror hout)
    rfl
  · cases he.symm.trans (hok hin)

theorem BoundsOnly.map {r : Except ErrCode α} (h : BoundsOnly r) (f : α → β) :
    BoundsOnly (r.map f) := by
  cases r with
  | ok x => exact nofun
  | error e =>
    rintro _ ⟨⟩
    exact h e rfl

theorem boundsOnly_memRead1 (a : Nat) : BoundsOnly (memRead1 s a) :=
  boundsOnly_of_access memRead1_ok memRead1_error

theorem boundsOnly_memRead2 (a : Nat) : BoundsOnly (memRead2 s a) :=
  boundsOnly_of_access memRead2_ok memRead2_error

theorem boundsOnly_memRead4 (a : Nat) : BoundsOnly (memRead4 s a) :=
  boundsOnly_of_access memRead4_ok memRead4_error

theorem boundsOnly_rangeRead (off : BitVec 24) (n : Word) (f : List Byte → Half) :
    BoundsOnly (rangeRead off n f s) :=
  boundsOnly_of_access (fun hin => if_pos hin) fun hout => if_neg (not_le.2 hout)

end

section
variable {i : Instr} {s : State}

theorem errsOnly_respond (v : Word) (u : State) : ErrsOnly i s (respond v u) :=
  .inl ⟨v, u, respond_eq v u⟩

theorem errsOnly_raise {e : ErrCode} {u : State} (h : ErrorEffect s i e u) :
    ErrsOnly i s (raise e u) := .inr ⟨e, u, h, raise_eq e u⟩

theorem errsOnly_refuse {e : ErrCode} (hcode : (errCode e).toNat ∈ refusalCodes i) :
    ErrsOnly i s (raise e s) := errsOnly_raise (.refused hcode)

theorem errsOnly_ite {c : Prop} [Decidable c] {a b : Result} (ha : ErrsOnly i s a)
    (hb : ErrsOnly i s b) : ErrsOnly i s (if c then a else b) := by
  split
  · exact ha
  · exact hb

theorem errsOnly_finishRead {r : Except ErrCode Word} (hcode : 2 ∈ refusalCodes i)
    (hr : BoundsOnly r) : ErrsOnly i s (finishRead r s) := by
  cases r with
  | ok v => exact errsOnly_respond v s
  | error e =>
    obtain rfl := hr e rfl
    exact errsOnly_refuse hcode

theorem errsOnly_finishWrite {r : Except ErrCode State}
    (h : ∀ e, r = .error e → (errCode e).toNat ∈ refusalCodes i) :
    ErrsOnly i s (finishWrite r s) := by
  cases r with
  | ok u => exact errsOnly_respond 0 u
  | error e => exact errsOnly_refuse (h e rfl)

/-- A store of `k` bytes is in bounds or refused. -/
theorem errsOnly_store {r : Except ErrCode State} {u : State} {k : Nat} (hcode : 2 ∈ refusalCodes i)
    (hok : k ≤ s.len → r = .ok u) (herror : s.len < k → r = .error .bounds) :
    ErrsOnly i s (finishWrite r s) := by
  refine errsOnly_finishWrite fun e he => ?_
  obtain rfl := boundsOnly_of_access hok herror e he
  exact hcode

theorem errsOnly_overRange (off : BitVec 24) (n : Word) (f : List Byte → Half)
    (hcode : 2 ∈ refusalCodes i) : ErrsOnly i s (overRange off n f s) := by
  rw [overRange_eq_finishRead]
  exact errsOnly_finishRead hcode (boundsOnly_rangeRead off n f)

theorem errsOnly_csrr (n : BitVec 24) : ErrsOnly (.csrr n) s (execCsrr n s) := by
  unfold execCsrr
  split
  · exact errsOnly_respond _ s
  · exact errsOnly_refuse (.head _)

/-- A write to a control register is refused for the register or for the value (R31, R243). -/
theorem csrWrite_error {r : CsrName} {v : Word} {e : ErrCode} (h : csrWrite s r v = .error e) :
    e = .illegal ∨ e = .config := by
  unfold csrWrite at h
  split_ifs at h
  · cases h
    exact .inl rfl
  · cases h
    exact .inr rfl

theorem errsOnly_csrw (n : BitVec 24) (v : Word) : ErrsOnly (.csrw n v) s (execCsrw n v s) := by
  cases hnum : csrOfNum n with
  | none =>
    rw [execCsrw_of_no_num hnum]
    exact errsOnly_refuse (.head _)
  | some r =>
    rw [execCsrw_of_num hnum]
    refine errsOnly_finishWrite fun e he => ?_
    obtain rfl | rfl := csrWrite_error he
    · exact .head _
    · exact .tail _ (.head _)

theorem errsOnly_finit : ErrsOnly .finit s (execFinit s) := by
  unfold execFinit
  split
  · exact errsOnly_raise .badConfig
  · exact errsOnly_respond _ _

/-- A completed header is refused for a total too small or too large (R163). -/
theorem framerHeader_error_code {f : Framer} {e : ErrCode} (h : framerHeader f = .error e) :
    e = .badlen ∨ e = .toolong := by
  unfold framerHeader at h
  split_ifs at h
  · cases h
    exact .inl rfl
  · cases h
    exact .inr rfl

theorem errsOnly_fpush (byte : Byte) : ErrsOnly (.fpush byte) s (execFpush byte s) := by
  refine errsOnly_ite ?_ (errsOnly_refuse (.head _))
  split
  next hhdr => exact errsOnly_raise (.badHeader (framerHeader_error_code hhdr))
  next => exact errsOnly_ite (errsOnly_respond _ _) (errsOnly_respond _ _)

theorem errsOnly_rxproc : ErrsOnly .rxproc s (execRxproc s) := by
  unfold execRxproc
  split
  next => exact errsOnly_respond _ _
  next hmin =>
    split
    next hreads => exact errsOnly_raise (.missingField (not_lt.1 hmin) hreads)
    next => exact errsOnly_respond _ _

end

/-- Every command answers OK or raises as `ErrorEffect` has it. -/
theorem exec_errsOnly (i : Instr) (s : State) : ErrsOnly i s (exec i s) := by
  cases i with
  | nop | srst | rdlen | frst | seqchk | seqget | seqnext | txseqget => exact errsOnly_respond _ _
  | csrr n => exact errsOnly_csrr n
  | csrw n v => exact errsOnly_csrw n v
  | setlen | appb => exact errsOnly_ite (errsOnly_refuse (.head _)) (errsOnly_respond _ _)
  | ftake => exact errsOnly_ite (errsOnly_respond _ _) (errsOnly_refuse (.head _))
  | rdb | gfine | gcki => exact errsOnly_finishRead (.head _) ((boundsOnly_memRead1 _).map _)
  | gver | gtype | gshf | gapid | gseqf | gseq | glenf | gplen =>
    exact errsOnly_finishRead (.head _) ((boundsOnly_memRead2 _).map _)
  | gcoarse => exact errsOnly_finishRead (.head _) (boundsOnly_memRead4 _)
  | wrb | sfine => exact errsOnly_store (.head _) (memWrite1_ok _) (memWrite1_error _)
  | slenf => exact errsOnly_store (.head _) (memWrite2_ok _) (memWrite2_error _)
  | scoarse => exact errsOnly_store (.head _) (memWrite4_ok _) (memWrite4_error _)
  | scki => exact errsOnly_store (.head _) (memUpdate1_ok _) (memUpdate1_error _)
  | sver | stype | sshf | sapid | sseqf | sseq =>
    exact errsOnly_store (.head _) (memUpdate2_ok _) (memUpdate2_error _)
  | crc16 off n | flet16 off n => exact errsOnly_overRange off n _ (.head _)
  | sum16 off n | cksum off n =>
    exact errsOnly_ite (errsOnly_refuse (.head _)) (errsOnly_overRange off n _ (.tail _ (.head _)))
  | shdr =>
    exact errsOnly_ite (errsOnly_refuse (.head _))
      (errsOnly_ite (errsOnly_refuse (.tail _ (.head _))) (errsOnly_respond _ _))
  | txproc =>
    exact errsOnly_ite (errsOnly_refuse (.head _)) (errsOnly_ite (errsOnly_refuse (.head _))
      (errsOnly_ite (errsOnly_refuse (.tail _ (.head _))) (errsOnly_respond _ _)))
  | finit => exact errsOnly_finit
  | fpush byte => exact errsOnly_fpush byte
  | feof =>
    exact errsOnly_ite (errsOnly_ite (errsOnly_raise .cutPacket) (errsOnly_respond _ _))
      (errsOnly_refuse (.head _))
  | rxproc => exact errsOnly_rxproc

/-! ### The error code of a response -/

theorem errField_ok (v : Word) : errField (v.setWidth 64) = 0 := by
  rw [errField, BitVec.toNat_setWidth_of_le (by decide), Nat.div_eq_of_lt v.isLt]

theorem errField_error (e : ErrCode) :
    errField (BitVec.ofNat 64 ((errCode e).toNat * 2 ^ 32)) = (errCode e).toNat := by
  cases e <;> rfl

/-- A response with an error code is one of the errors of `ErrorEffect`. -/
theorem exec_error {i : Instr} {s t : State} {w : PortWord} (hexec : exec i s = .next t)
    (hrsp : t.rsp = some w) (herr : errField w ≠ 0) :
    ∃ e u, ErrorEffect s i e u ∧ t = failed (errCode e).toNat u ∧ errField w = (errCode e).toNat := by
  obtain ⟨v, u, hok⟩ | ⟨e, u, heffect, hfailed⟩ := exec_errsOnly i s
  · cases hexec.symm.trans hok
    cases hrsp
    exact absurd (errField_ok v) herr
  · cases hexec.symm.trans hfailed
    cases hrsp
    exact ⟨e, u, heffect, rfl, errField_error e⟩

/-- Settles O52: a refusal changes nothing, and the other errors of FINIT, FPUSH and FEOF change the
framer only. -/
theorem errorsArePrecise : Obligations.ErrorsArePrecise := by
  intro i s t w hexec hrsp herr
  obtain ⟨e, u, heffect, rfl, hcode⟩ := exec_error hexec hrsp herr
  rw [hcode]
  cases heffect with
  | refused hlisted =>
    refine ⟨rfl, fun _ _ _ => rfl, ?fpush, ?finit, ?feof⟩
    case fpush =>
      rintro byte rfl
      exact .inl ⟨List.mem_singleton.1 hlisted, rfl⟩
    case finit =>
      rintro rfl
      cases hlisted
    case feof =>
      rintro rfl
      exact .inl ⟨List.mem_singleton.1 hlisted, rfl⟩
  | badConfig => exact ⟨rfl, fun _ hfinit => absurd rfl hfinit, nofun, fun _ => rfl, nofun⟩
  | badHeader =>
    exact ⟨rfl, fun hfpush => absurd rfl (hfpush _), fun _ _ => .inr rfl, nofun, nofun⟩
  | cutPacket => exact ⟨rfl, fun _ _ hfeof => absurd rfl hfeof, nofun, nofun, fun _ => .inr rfl⟩
  | missingField => exact ⟨rfl, fun _ _ _ => rfl, nofun, nofun, nofun⟩

theorem mem_mayRaise_of_mem_refusalCodes {i : Instr} {code : Nat} (h : code ∈ refusalCodes i) :
    code ∈ mayRaise i := by
  unfold refusalCodes at h
  split at h
  · cases h
  · exact List.mem_cons.2 (.inl (List.mem_singleton.1 h))
  · exact List.mem_cons.2 (.inl (List.mem_singleton.1 h))
  · exact h

/-- Under the invariant every packet that RXMIN lets through has the fields RXPROC reads. -/
theorem rxReads_ne_error {s : State} (hinv : StateInv s) (hmin : s.csr.rxMin.toNat ≤ s.len)
    (e : ErrCode) : rxReads s ≠ .error e := by
  obtain ⟨-, -, -, -, ⟨⟨hfloor, -⟩, -⟩, -⟩ := hinv
  rw [rxReads_of_floor_le (hfloor.trans hmin)]
  exact nofun

/-- Settles O53: each error of `ErrorEffect` is listed, but for RXPROC's, which no state of the invariant
raises. -/
theorem onlyListedErrorsAreRaised : Obligations.OnlyListedErrorsAreRaised := by
  intro i s t w hinv hexec hrsp herr
  obtain ⟨e, u, heffect, -, hcode⟩ := exec_error hexec hrsp herr
  rw [hcode]
  cases heffect with
  | refused hlisted => exact mem_mayRaise_of_mem_refusalCodes hlisted
  | badConfig => exact .head _
  | badHeader hheader =>
    obtain rfl | rfl := hheader
    · exact .tail _ (.head _)
    · exact .tail _ (.tail _ (.head _))
  | cutPacket => exact .tail _ (.head _)
  | missingField hmin hreads => exact absurd hreads (rxReads_ne_error hinv hmin e)

end Sys2Proof.Machine
